-- ==== Sys2Proof/Word.lean ====
section
/-! DEFINITION. The widths of the block's values (spec/00_scope.md R7, R8): every value is unsigned. -/

namespace Sys2Proof

/-- `DATA_WIDTH`: a byte on the 8 data lines, or a byte operand (R7). -/
abbrev Byte := BitVec 8

/-- `ADDR_WIDTH`: a location of the cartridge address space, 0x000 to 0xFFF (R7, 20_memory.md R50). -/
abbrev Location := BitVec 12

/-- `ADDR_IN_WIDTH` and `CSUM_WIDTH`: a 16-bit argument, response datum or checksum (R7). -/
abbrev Word16 := BitVec 16

/-- A command word `CW = {cmd_op, cmd_arg}` (30_encoding.md R72, R76). -/
abbrev CommandWord := BitVec 20

end Sys2Proof
end

