-- ==== Sys2Proof/Syntax.lean ====
section
/-! DEFINITION. The command set of the host port (spec/30_encoding.md R77, R80): one constructor per row of
spec/opcode_table.json, its operand exactly as wide as R77 gives it. -/

namespace Sys2Proof

/-- A legal command. Illegal words are not commands: `Decoded.illegal` (Decode.lean) names them. -/
inductive Instr where
  /-- SET_ADDRESS (41_cartridge_bus.md R130 to R132); every 16-bit argument is legal. -/
  | setAddress (addr : Word16)
  /-- SET_DATA (R140). -/
  | setData (value : Byte)
  /-- GET_DATA (R145). -/
  | getData
  /-- ENABLE_CS (R150). -/
  | enableCs
  /-- DISABLE_CS (R152). -/
  | disableCs
  /-- CSUM_CLEAR (40_checksum.md R101). -/
  | csumClear
  /-- CSUM_ADD (R102). -/
  | csumAdd (byte : Byte)
  /-- CSUM_READ (R104). -/
  | csumRead
deriving DecidableEq, Repr

end Sys2Proof
end

