-- ==== Sys2Proof/WellFormed.lean ====
section
/-! DEFINITION. Which pairs of an opcode and an argument are a legal command (spec/30_encoding.md R77, R82, R83).
A term of `Instr` is well-formed by its type: each operand has exactly the width R77 gives it and every value of
that width is legal. What can be ill-formed is what the host presents, so the two checks are on `cmd_op` and
`cmd_arg`. -/

namespace Sys2Proof

/-- R80, R82: ops 0x1 to 0x5 and 0x8 to 0xA are assigned, the other eight are not. -/
def opAssigned (op : BitVec 4) : Bool :=
  (0x1#4 ≤ op && op ≤ 0x5#4) || (0x8#4 ≤ op && op ≤ 0xA#4)

/-- R77: the argument bits that must be 0, for an assigned op. -/
def reservedMask (op : BitVec 4) : Word16 :=
  if op = 0x1#4 then 0x0000#16
  else if op = 0x2#4 ∨ op = 0x9#4 then 0xFF00#16
  else 0xFFFF#16

/-- R83: no reserved argument bit is set. -/
def reservedZero (op : BitVec 4) (arg : Word16) : Bool := arg &&& reservedMask op = 0#16

/-- The two fields of a command word are a legal command (R82, R83). -/
def wellFormedFields (op : BitVec 4) (arg : Word16) : Bool := opAssigned op && reservedZero op arg

end Sys2Proof
end

