-- ==== Sys2Proof/Decode.lean ====
section
/-! DEFINITION. Decoding and encoding of command words (spec/30_encoding.md R76, R77, R80 to R83, R88) and the
opcode map R80 as a table. -/

namespace Sys2Proof

/-- Why a word is illegal (60_exceptions.md R170). -/
inductive IllegalCause where
  /-- R82: op 0x0, 0x6, 0x7 or 0xB to 0xF. -/
  | unassignedOp
  /-- R83: an assigned op with a nonzero reserved argument bit. -/
  | reservedBits
deriving DecidableEq, Repr

/-- What a 20-bit word decodes to (R81). -/
inductive Decoded where
  | command (i : Instr)
  | illegal (cause : IllegalCause)
deriving DecidableEq, Repr

/-- R76: `op = CW[19:16]`. -/
def opField (cw : CommandWord) : BitVec 4 := cw.extractLsb' 16 4

/-- R76: `arg = CW[15:0]`. -/
def argField (cw : CommandWord) : Word16 := cw.extractLsb' 0 16

/-- R72, R76: `CW = {cmd_op, cmd_arg}`. -/
def commandWord (op : BitVec 4) (arg : Word16) : CommandWord := op ++ arg

/-- R77: the 8-bit operand is `arg[7:0]`. -/
def byteOperand (arg : Word16) : Byte := arg.extractLsb' 0 8

/-- R77, R83: a command whose only operand is `arg[7:0]`; `arg[15:8]` must be 0. -/
def decodeByteForm (mk : Byte → Instr) (arg : Word16) : Decoded :=
  if arg.extractLsb' 8 8 = 0#8 then .command (mk (byteOperand arg)) else .illegal .reservedBits

/-- R77, R83: a command without operand; `arg` must be 0. -/
def decodePlainForm (i : Instr) (arg : Word16) : Decoded :=
  if arg = 0#16 then .command i else .illegal .reservedBits

/-- R81: decoding of an op and its argument, total. -/
def decodeFields (op : BitVec 4) (arg : Word16) : Decoded :=
  if op = 0x1#4 then .command (.setAddress arg)
  else if op = 0x2#4 then decodeByteForm .setData arg
  else if op = 0x3#4 then decodePlainForm .getData arg
  else if op = 0x4#4 then decodePlainForm .enableCs arg
  else if op = 0x5#4 then decodePlainForm .disableCs arg
  else if op = 0x8#4 then decodePlainForm .csumClear arg
  else if op = 0x9#4 then decodeByteForm .csumAdd arg
  else if op = 0xA#4 then decodePlainForm .csumRead arg
  else .illegal .unassignedOp

/-- R81: decoding, total on every 20-bit word. -/
def decode (cw : CommandWord) : Decoded := decodeFields (opField cw) (argField cw)

/-- The opcode of a command (R80). -/
def opOf : Instr → BitVec 4
  | .setAddress _ => 0x1#4
  | .setData _ => 0x2#4
  | .getData => 0x3#4
  | .enableCs => 0x4#4
  | .disableCs => 0x5#4
  | .csumClear => 0x8#4
  | .csumAdd _ => 0x9#4
  | .csumRead => 0xA#4

/-- The argument of a command: its operand in the low bits, the reserved bits 0 (R77). -/
def argOf : Instr → Word16
  | .setAddress addr => addr
  | .setData value => value.setWidth 16
  | .getData => 0#16
  | .enableCs => 0#16
  | .disableCs => 0#16
  | .csumClear => 0#16
  | .csumAdd byte => byte.setWidth 16
  | .csumRead => 0#16

/-- R88: the assembled word `(op << 16) | imm`. -/
def encode (i : Instr) : CommandWord := commandWord (opOf i) (argOf i)

/-- A row of the opcode map R80: a word `CW` selects the row with `(CW & mask) = match`. -/
structure OpcodeRow where
  mnemonic : String
  pattern : CommandWord
  mask : CommandWord
deriving DecidableEq, Repr

/-- R80: the word selects the row. -/
def rowSelected (r : OpcodeRow) (cw : CommandWord) : Bool := cw &&& r.mask = r.pattern

/-- The opcode map R80, row by row (the machine-readable copy is spec/opcode_table.json). -/
def opcodeRows : List OpcodeRow :=
  [ ⟨"SET_ADDRESS", 0x10000#20, 0xF0000#20⟩,
    ⟨"SET_DATA", 0x20000#20, 0xFFF00#20⟩,
    ⟨"GET_DATA", 0x30000#20, 0xFFFFF#20⟩,
    ⟨"ENABLE_CS", 0x40000#20, 0xFFFFF#20⟩,
    ⟨"DISABLE_CS", 0x50000#20, 0xFFFFF#20⟩,
    ⟨"CSUM_CLEAR", 0x80000#20, 0xFFFFF#20⟩,
    ⟨"CSUM_ADD", 0x90000#20, 0xFFF00#20⟩,
    ⟨"CSUM_READ", 0xA0000#20, 0xFFFFF#20⟩ ]

/-- The row of a command, as its number in `opcodeRows`. -/
def rowOf : Instr → Fin 8
  | .setAddress _ => 0
  | .setData _ => 1
  | .getData => 2
  | .enableCs => 3
  | .disableCs => 4
  | .csumClear => 5
  | .csumAdd _ => 6
  | .csumRead => 7

/-- The command that the decoder reads from an instruction whose bits are `w`, as spec/opcode_table.json numbers
them: the command word is one word of 20 bits (R76, R86), so a number of 2^20 or more is none. DEDUCED, safe:
notes/assumptions/14.md. -/
def decodeTableWord (_nbits w : Nat) : Option Instr :=
  if w < 2 ^ 20 then
    match decode (BitVec.ofNat 20 w) with
    | .command i => some i
    | .illegal _ => none
  else none

end Sys2Proof
end

