-- ==== Sys2Proof/Config.lean ====
section
/-! DEFINITION. The implementation parameters of spec/00_scope.md R7 and the free values of the model. A parameter
the spec leaves OPEN, and a value it leaves open, is an opaque constant: no proof can see what it is. -/

namespace Sys2Proof

/-- What the cartridge sees of the block: the cartridge-side outputs (10_state.md R31, R32). -/
structure CartPins where
  a : Location
  dOut : Byte
  dOe : Bool
  dPull : Byte
  cs : Bool
deriving DecidableEq, Repr

/-- R7 `WIRE_ENDIAN`: the byte order of the surrounding software's wire format. -/
inductive WireEndian where
  | little
  | big
deriving DecidableEq, Repr, Inhabited

namespace Config

/-- R7 `ROM_BOUNDARY`, at the value the source states. DESIGN CHOICE (the parameter is fixed at its default),
unsafe for a block configured otherwise: notes/assumptions/9.md. -/
def romBoundary : Nat := 0x1000

/-- R7 `CS_ACTIVE_LEVEL`, OPEN: the electrical level of an asserted chip-select. Safe: notes/assumptions/10.md. -/
opaque csActiveLevel : Bool

/-- `T_ACC_CYCLES` less one, OPEN. Safe: notes/assumptions/10.md. -/
opaque tAccCyclesLessOne : Nat

/-- R7 `T_ACC_CYCLES`, OPEN, an integer at least 1: the cartridge's access time in cycles. -/
def tAccCycles : Nat := tAccCyclesLessOne + 1

/-- R7 `T_BBM`, OPEN, in some unit of time. Safe: notes/assumptions/10.md. -/
opaque tBbm : Nat

/-- The period of `clk`, chosen by the platform (70_reset_and_hazards.md R202), in the unit of `tBbm`. -/
opaque clkPeriod : Nat

/-- R7 `WIRE_ENDIAN`, OPEN; no rule of the block depends on it (20_memory.md R53). -/
opaque wireEndian : WireEndian

/-- The level of the 8 data lines at a rising edge of `clk` as `cart_d_in` samples it (00_scope.md R9, D34; U1, U2,
U9): any value. Applied to the number of the edge and to the pins the cartridge sees at it. A free value, DESIGN
CHOICE: notes/assumptions/3.md. -/
opaque cartDIn : Nat → CartPins → Byte

/-- The value of `PEND` after a reset inside a run (10_state.md R27, R35: unspecified; U12): any value. Applied to
the number of edges so far and to what `PEND` held. A free value, safe: notes/assumptions/2.md. -/
opaque pendAfterReset : Nat → Word16 → Word16

end Config

end Sys2Proof
end

