-- ==== Sys2Proof/Machine/Flags.lean ====
section
/-! DEFINITION. The block has no flags or condition codes (spec/10_state.md R38); the only per-command status is the
response status, encoded by spec/30_encoding.md R84. -/

namespace Sys2Proof.Machine

/-- R84 `OK`. -/
def statusOk : BitVec 2 := 0b00#2

/-- R84 `CS_REFUSED`: ENABLE_CS in output mode. -/
def statusCsRefused : BitVec 2 := 0b01#2

/-- R84 `ILLEGAL`: every illegal word. -/
def statusIllegal : BitVec 2 := 0b10#2

/-- The status of ENABLE_CS, given `DRIVE` (R84, 41_cartridge_bus.md R150). -/
def enableStatus (drive : Bool) : BitVec 2 := if drive then statusCsRefused else statusOk

/-- R85: the response data of a command that returns nothing, and of an illegal word. -/
def noData : Word16 := 0x0000#16

end Sys2Proof.Machine
end

