-- ==== Sys2Proof/Machine/Operands.lean ====
section
/-! DEFINITION. The operand forms of the commands and the block's arithmetic (spec/41_cartridge_bus.md R120, R121;
spec/40_checksum.md R106). -/

namespace Sys2Proof.Machine

/-- The data-bus mode that a SET_ADDRESS argument selects (R120). -/
inductive BusMode where
  | input
  | output
deriving DecidableEq, Repr

/-- R120 `mode(a)`: input mode at or above `ROM_BOUNDARY`, compared on all 16 bits of the argument
(20_memory.md R52; notes/assumptions/9.md). -/
def modeOf (a : Word16) : BusMode := if Config.romBoundary ≤ a.toNat then .input else .output

/-- R120 `drive_of(a)`: `DRIVE = 1` is output mode. -/
def driveOf (a : Word16) : Bool :=
  match modeOf a with
  | .input => false
  | .output => true

/-- R121 `mask(a) = a[11:0]`: the location of a 16-bit argument. -/
def maskAddress (a : Word16) : Location := a.extractLsb' 0 12

/-- R8 `zext_16`. -/
def zext16 (b : Byte) : Word16 := b.setWidth 16

/-- R8 `a +16 b`: the sum modulo 2^16; the carry out of bit 15 is discarded (R106). -/
def add16 (a b : Word16) : Word16 := a + b

end Sys2Proof.Machine
end

