-- ==== Sys2Proof/Machine/State.lean ====
section
/-! DEFINITION. The state of the block (spec/10_state.md), the levels of its input ports, and the model's own fields
for the environment. -/

namespace Sys2Proof.Machine

/-- `PHASE` (10_state.md R26). -/
inductive Phase where
  /-- No command is in progress. -/
  | idle
  /-- SET_ADDRESS phase B pending: the one cycle between the two edges of a SET_ADDRESS. -/
  | saB
deriving DecidableEq, Repr

/-- What can happen at the block's input ports (30_encoding.md R70): the moves of the host and of the clock, in the
order they happen. DESIGN CHOICE, safe: notes/assumptions/4.md. -/
inductive PortEvent where
  /-- A rising edge of `clk` (30 R70). -/
  | clkRise
  /-- `rst` goes to 1; it acts at once, without an edge (30 R71). -/
  | rstRise
  /-- `rst` goes to 0 (30 R71, 70 R193). -/
  | rstFall
  /-- The host presents a command: `cmd_valid = 1` with this `cmd_op` and `cmd_arg` (30 R72). -/
  | present (op : BitVec 4) (arg : Word16)
  /-- The host presents no command: `cmd_valid = 0`. -/
  | withdraw
deriving DecidableEq, Repr

/-- Why the machine stops with a fault. -/
inductive Fault where
  /-- `DRIVE = 1` and `CS = 1` at once (10 R29, 60 R174, U13). Raised by `step` and `runEvents` in such a state,
  whatever the event; no rule reaches one from a state without it. Safe: the model stops where the lines would be in
  contention. -/
  | contention
deriving DecidableEq, Repr

/-- Why the machine refuses to go on. -/
inductive Refusal where
  /-- An instruction of the opcode table without a meaning: raised by `exec` only. Safe. No arm raises it now. -/
  | notModelled (mnemonic : String)
  /-- The host changed or withdrew a presented command before it was accepted (30 R72, 70 R206, R215, U8: the
  model gives that move no meaning). Raised by `presentAt` and `withdrawAt`. Unsafe for a host that does it, and the
  spec says so (U8): notes/assumptions/6.md. -/
  | hostChangedCommand
deriving DecidableEq, Repr

/-- The machine: ten registers of the block (10_state.md R20 to R28), the levels of its command and reset ports
(30_encoding.md R70), and the model's own fields. -/
structure State where
  /-- `ADDR` (R21). -/
  addr : Location
  /-- `DRIVE` (R22): true is output mode. -/
  drive : Bool
  /-- `SHADOW` (R23). -/
  shadow : Byte
  /-- `CS` (R24): true is asserted. -/
  cs : Bool
  /-- `ACC` (R25). -/
  acc : Word16
  /-- `PHASE` (R26). -/
  phase : Phase
  /-- `PEND` (R27). -/
  pend : Word16
  /-- `RSP_VALID` (R28). -/
  rspValid : Bool
  /-- `RSP_STATUS` (R28), encoded as 30_encoding.md R84. -/
  rspStatus : BitVec 2
  /-- `RSP_DATA` (R28). -/
  rspData : Word16
  /-- Input port `rst` (30 R70, R71). -/
  rst : Bool
  /-- Input port `cmd_valid` (30 R70, R72). -/
  cmdValid : Bool
  /-- Input port `cmd_op` (30 R70, R72). -/
  cmdOp : BitVec 4
  /-- Input port `cmd_arg` (30 R70, R72). -/
  cmdArg : Word16
  /-- The model's own: the port events still to come, first first; none left means the clock just runs. -/
  events : List PortEvent
  /-- The model's own: the presented command has not been accepted yet (the duty of 30 R72, 70 R206). -/
  waiting : Bool
  /-- The model's own: how many rising edges of `clk` there have been, so the number of the next one. -/
  edge : Nat
  /-- The model's own: the edge `e` of 70 R201. -/
  accessFrom : Nat
deriving DecidableEq, Repr

/-- The machine right after reset (10_state.md R35, 70 R190). `PEND` is unspecified there: 0x0000 is a DESIGN
CHOICE, unsafe (notes/assumptions/1.md). `rst` has just been released, and the command port and the model's own
fields start at zero: DESIGN CHOICE, unsafe (notes/assumptions/5.md). -/
def State.reset : State where
  addr := 0x000#12
  drive := false
  shadow := 0x00#8
  cs := false
  acc := 0x0000#16
  phase := .idle
  pend := 0x0000#16
  rspValid := false
  rspStatus := 0b00#2
  rspData := 0x0000#16
  rst := false
  cmdValid := false
  cmdOp := 0x0#4
  cmdArg := 0x0000#16
  events := []
  waiting := false
  edge := 0
  accessFrom := 0

end Sys2Proof.Machine
end

