-- ==== Sys2Proof/Machine/Pins.lean ====
section
/-! DEFINITION. The block's outputs, functions of its state in every cycle (spec/10_state.md R28, R30 to R34;
spec/30_encoding.md R70, R73). -/

namespace Sys2Proof.Machine

/-- 30 R73: `cmd_ready = (rst = 0) and (PHASE = IDLE)`. -/
def State.cmdReady (s : State) : Bool := !s.rst && s.phase = .idle

/-- 10 R32: the weak pull-up enables, `SHADOW` in input mode and 0x00 in output mode. -/
def State.cartDPull (s : State) : Byte := if s.drive then 0x00#8 else s.shadow

/-- The cartridge-side outputs (10 R31, R32). -/
def State.cartPins (s : State) : CartPins where
  a := s.addr
  dOut := s.shadow
  dOe := s.drive
  dPull := s.cartDPull
  cs := s.cs

/-- 10 R30: logical address line `i` carries bit `i` of `ADDR`. -/
def State.addressLine (s : State) (i : Fin 12) : Bool := s.addr.getLsb i

/-- 10 R30, R31: what the block puts on logical data line `i`: bit `i` of `SHADOW` in output mode, nothing (high
impedance) in input mode. -/
def State.dataLine (s : State) (i : Fin 8) : Option Bool := if s.drive then some (s.shadow.getLsb i) else none

/-- 00_scope.md R7, 10 R31: the electrical level of the chip-select pin, `CS_ACTIVE_LEVEL` when asserted. -/
def State.csPinLevel (s : State) : Bool := if s.cs then Config.csActiveLevel else !Config.csActiveLevel

/-- One response on the host port (30 R84, R85). -/
structure Response where
  status : BitVec 2
  data : Word16
deriving DecidableEq, Repr

/-- The host-port outputs `rsp_valid`, `rsp_status`, `rsp_data` (10 R28, 30 R74): the response present this cycle. -/
def State.response (s : State) : Option Response :=
  if s.rspValid then some ⟨s.rspStatus, s.rspData⟩ else none

/-- The states of the control FSM, the pair (`DRIVE`, `CS`) (10 R34). -/
inductive FsmState where
  /-- Input mode, cartridge deselected: the reset state. -/
  | inIdle
  /-- Input mode, cartridge selected. -/
  | inSel
  /-- Output mode. -/
  | out
  /-- The combination R29 forbids. -/
  | forbidden
deriving DecidableEq, Repr

/-- 10 R34: the FSM state. -/
def State.fsm (s : State) : FsmState :=
  match s.drive, s.cs with
  | false, false => .inIdle
  | false, true => .inSel
  | true, false => .out
  | true, true => .forbidden

/-- 10 R29, 60 R174: both true at once. -/
def State.contended (s : State) : Bool := s.drive && s.cs

end Sys2Proof.Machine
end

