-- ==== Sys2Proof/Machine/Ops.lean ====
section
/-! DEFINITION. The operations the commands and the clock edge share: the response (spec/00_scope.md R8), the abnormal
outcome (spec/60_exceptions.md R171), reset (spec/70_reset_and_hazards.md R190), the read-back multiplexer
(spec/41_cartridge_bus.md R146), and the two phases of SET_ADDRESS (R130, R131). The block has no internal memory
(spec/20_memory.md R50) and no general registers (spec/10_state.md R20). It has no trap entry and no trap return
(60 R177, R178). -/

namespace Sys2Proof.Machine

/-- Applies `f` to a next state and keeps a stop. -/
def mapNext (f : State → State) : Host.Outcome State Fault Refusal → Host.Outcome State Fault Refusal
  | .next s => .next (f s)
  | .fault r => .fault r
  | .refused r => .refused r

/-- Goes on from a next state and keeps a stop. -/
def bindNext (o : Host.Outcome State Fault Refusal) (f : State → Host.Outcome State Fault Refusal) :
    Host.Outcome State Fault Refusal :=
  match o with
  | .next s => f s
  | .fault r => .fault r
  | .refused r => .refused r

/-- The next state, if the outcome is one. -/
def nextState? : Host.Outcome State Fault Refusal → Option State
  | .next s => some s
  | .fault _ => none
  | .refused _ => none

/-- 00 R8 `respond(status, data)`, 30_encoding.md R74: the edge completes a command. -/
def State.respond (s : State) (status : BitVec 2) (data : Word16) : State :=
  { s with rspValid := true, rspStatus := status, rspData := data }

/-- 30 R74: the edge completes no command; the last response's status and data stay. -/
def State.noResponse (s : State) : State := { s with rspValid := false }

/-- 60 R171: the abnormal outcome of an illegal word. No trap: nothing changes but the response. -/
def State.illegalCommand (s : State) : State := s.respond statusIllegal noData

/-- 70 R190, 10 R35: every register takes its reset value. `PEND` is unspecified, a free value
(notes/assumptions/2.md). The input ports and the model's own fields are no registers of the block. -/
def State.resetRegisters (s : State) : State :=
  { s with
    addr := 0x000#12
    drive := false
    shadow := 0x00#8
    cs := false
    acc := 0x0000#16
    phase := .idle
    pend := Config.pendAfterReset s.edge s.pend
    rspValid := false
    rspStatus := statusOk
    rspData := noData }

/-- 00 R8 `MemRead(ADDR, 1)`: `cart_d_in` sampled at this edge, a draw (00 R9; notes/assumptions/3.md). -/
def State.sampleDataLines (s : State) : Byte := Config.cartDIn s.edge s.cartPins

/-- 41 R146, the read-back multiplexer: `SHADOW` in output mode, the data lines in input mode. -/
def State.readValue (s : State) : Byte := if s.drive then s.shadow else s.sampleDataLines

/-- Writes `CS` (41 R130, R150, R152). -/
def State.setCs (s : State) (b : Bool) : State := { s with cs := b }

/-- Writes `SHADOW` (41 R140). -/
def State.setShadow (s : State) (v : Byte) : State := { s with shadow := v }

/-- Writes `ACC` (40_checksum.md R101, R102). -/
def State.setAcc (s : State) (v : Word16) : State := { s with acc := v }

/-- The model's own note of the edge from which the access time of 70 R201 runs (notes/assumptions/13.md). -/
def State.markAccess (s : State) : State := { s with accessFrom := s.edge }

/-- 41 R130, phase A of SET_ADDRESS: chip-select off first, the argument kept, no response at this edge. -/
def State.startSetAddress (s : State) (arg : Word16) : State :=
  { s.setCs false with pend := arg, phase := .saB }

/-- 41 R131, phase B of SET_ADDRESS: direction and address from `PEND`, at one edge; `CS` is not written. -/
def State.finishSetAddress (s : State) : State :=
  { s with drive := driveOf s.pend, addr := maskAddress s.pend, phase := .idle }

end Sys2Proof.Machine
end

