-- ==== Sys2Proof/Machine/Bus.lean ====
section
/-! DEFINITION. The bus commands (spec/41_cartridge_bus.md): what each does at the edge that accepts it. -/

namespace Sys2Proof.Machine

/-- SET_ADDRESS at its accepting edge: phase A (R130). Phase B (R131) is `State.phaseB`, at the next edge. -/
def execSetAddress (addr : Word16) (s : State) : Host.Outcome State Fault Refusal :=
  .next (s.startSetAddress addr).noResponse

/-- SET_ADDRESS at the edge after its accepting edge: phase B (R131), which completes it. -/
def State.phaseB (s : State) : State := s.finishSetAddress.markAccess.respond statusOk noData

/-- SET_DATA (R140): legal in either mode. -/
def execSetData (value : Byte) (s : State) : Host.Outcome State Fault Refusal :=
  .next ((s.setShadow value).respond statusOk noData)

/-- GET_DATA (R145). -/
def execGetData (s : State) : Host.Outcome State Fault Refusal :=
  .next (s.respond statusOk (zext16 s.readValue))

/-- ENABLE_CS (R150): asserts chip-select in input mode; in output mode it is refused with a result code and forces
`CS` to 0 (60_exceptions.md R172). -/
def execEnableCs (s : State) : Host.Outcome State Fault Refusal :=
  .next ((s.setCs (!s.drive)).markAccess.respond (enableStatus s.drive) noData)

/-- DISABLE_CS (R152). -/
def execDisableCs (s : State) : Host.Outcome State Fault Refusal :=
  .next ((s.setCs false).respond statusOk noData)

end Sys2Proof.Machine
end

