-- ==== Sys2Proof/Machine/Checksum.lean ====
section
/-! DEFINITION. The checksum commands and the function they compute (spec/40_checksum.md). -/

namespace Sys2Proof.Machine

/-- R105: the sum of the bytes modulo 2^16. -/
def checksum (bytes : List Byte) : Word16 := BitVec.ofNat 16 (bytes.map BitVec.toNat).sum

/-- CSUM_CLEAR (R101). -/
def execCsumClear (s : State) : Host.Outcome State Fault Refusal :=
  .next ((s.setAcc 0x0000#16).respond statusOk noData)

/-- CSUM_ADD (R102). -/
def execCsumAdd (byte : Byte) (s : State) : Host.Outcome State Fault Refusal :=
  .next ((s.setAcc (add16 s.acc (zext16 byte))).respond statusOk noData)

/-- CSUM_READ (R104): `ACC` is unchanged. -/
def execCsumRead (s : State) : Host.Outcome State Fault Refusal :=
  .next (s.respond statusOk s.acc)

/-- R112: the 8 bytes of a frame header that precede its checksum field (surrounding software; nothing of the block
depends on it). -/
structure FrameHeader where
  cmd : Byte
  status : Byte
  requestLength : Word16
  replyLength : Word16
  address : Word16
deriving DecidableEq, Repr

/-- The two bytes of a 16-bit field in the order `WIRE_ENDIAN` gives them (00_scope.md R7, 20_memory.md R53). -/
def wireBytes (e : WireEndian) (v : Word16) : List Byte :=
  match e with
  | .little => [v.extractLsb' 0 8, v.extractLsb' 8 8]
  | .big => [v.extractLsb' 8 8, v.extractLsb' 0 8]

/-- R112: the header without its checksum field, serialised. -/
def headerBytes (e : WireEndian) (h : FrameHeader) : List Byte :=
  [h.cmd, h.status] ++ wireBytes e h.requestLength ++ wireBytes e h.replyLength ++ wireBytes e h.address

/-- R112: the frame checksum, the sum of the header's and the payload's. -/
def frameChecksum (e : WireEndian) (h : FrameHeader) (payload : List Byte) : Word16 :=
  add16 (checksum (headerBytes e h)) (checksum payload)

/-- R112: the frame checksum in the wire's own byte order, the open parameter (notes/assumptions/10.md). -/
def wireFrameChecksum (h : FrameHeader) (payload : List Byte) : Word16 := frameChecksum Config.wireEndian h payload

end Sys2Proof.Machine
end

