-- ==== Sys2Proof/Machine/Dispatch.lean ====
section
/-! DEFINITION. What each command does at the edge that accepts it (spec/30_encoding.md R72): one arm per constructor
of `Instr`. -/

namespace Sys2Proof.Machine

def exec (i : Instr) (s : State) : Host.Outcome State Fault Refusal :=
  match i with
  | .setAddress addr => Sys2Proof.Machine.execSetAddress addr s
  | .setData value => Sys2Proof.Machine.execSetData value s
  | .getData => Sys2Proof.Machine.execGetData s
  | .enableCs => Sys2Proof.Machine.execEnableCs s
  | .disableCs => Sys2Proof.Machine.execDisableCs s
  | .csumClear => Sys2Proof.Machine.execCsumClear s
  | .csumAdd byte => Sys2Proof.Machine.execCsumAdd byte s
  | .csumRead => Sys2Proof.Machine.execCsumRead s

end Sys2Proof.Machine
end

