-- ==== Sys2Proof/Machine/Edge.lean ====
section
/-! DEFINITION. What a rising edge of `clk` and the other port events do (spec/30_encoding.md R71 to R74,
spec/60_exceptions.md R173, R184, spec/70_reset_and_hazards.md R190 to R193). -/

namespace Sys2Proof.Machine

/-- R72: the word on the command port, `CW = {cmd_op, cmd_arg}`. -/
def State.portWord (s : State) : CommandWord := commandWord s.cmdOp s.cmdArg

/-- R72: a rising edge at this state accepts a command. -/
def State.accepts (s : State) : Bool := s.cmdReady && s.cmdValid

/-- The edge that accepts `cw`: a legal word does what its command does, an illegal one 60 R171. -/
def acceptWord (cw : CommandWord) (s : State) : Host.Outcome State Fault Refusal :=
  match decode cw with
  | .command i => exec i s
  | .illegal _ => .next s.illegalCommand

/-- The model's own fields after an edge: one more edge, and a word still presented but not accepted waits
(60 R173; notes/assumptions/6.md). -/
def State.endEdge (s : State) (accepted : Bool) : State :=
  { s with edge := s.edge + 1, waiting := !accepted && s.cmdValid }

/-- A rising edge of `clk`: under reset every register holds its reset value and nothing is accepted (R71;
notes/assumptions/12.md); in phase B of SET_ADDRESS that phase is done and a presented word waits (R73, 60 R173);
else a presented word is accepted (R72), and with none only `RSP_VALID` changes (R74, 60 R184). -/
def clockEdge (s : State) : Host.Outcome State Fault Refusal :=
  if s.rst then .next (s.resetRegisters.endEdge false)
  else
    match s.phase with
    | .saB => .next (s.phaseB.endEdge false)
    | .idle =>
      if s.cmdValid then mapNext (State.endEdge · true) (acceptWord s.portWord s)
      else .next (s.noResponse.endEdge false)

/-- R71, 70 R190, R192: `rst` rises; at once every register takes its reset value. -/
def State.raiseRst (s : State) : State := { s.resetRegisters with rst := true }

/-- R71, 70 R193: `rst` falls; the registers keep their reset values until an edge. -/
def State.lowerRst (s : State) : State := { s with rst := false }

/-- 70 R206: the presented command has not been accepted and may not change (notes/assumptions/6.md). -/
def State.mustHold (s : State) : Bool := s.cmdValid && s.waiting

/-- R72: the host presents a command. While an earlier one waits, only the same word may stay (R206, U8). -/
def presentAt (op : BitVec 4) (arg : Word16) (s : State) : Host.Outcome State Fault Refusal :=
  if s.mustHold && !(s.cmdOp = op && s.cmdArg = arg) then .refused .hostChangedCommand
  else .next { s with cmdValid := true, cmdOp := op, cmdArg := arg, waiting := true }

/-- The host drops `cmd_valid`; not while its command waits (R206, U8). -/
def withdrawAt (s : State) : Host.Outcome State Fault Refusal :=
  if s.mustHold then .refused .hostChangedCommand
  else .next { s with cmdValid := false, waiting := false }

/-- What one port event does. -/
def handleEvent (e : PortEvent) (s : State) : Host.Outcome State Fault Refusal :=
  match e with
  | .clkRise => clockEdge s
  | .rstRise => .next s.raiseRst
  | .rstFall => .next s.lowerRst
  | .present op arg => presentAt op arg s
  | .withdraw => withdrawAt s

/-- The event at a step: the first of those to come, and a rising edge of `clk` where none is left
(notes/assumptions/4.md). -/
def State.nextEvent (s : State) : PortEvent := s.events.headD .clkRise

/-- The event is over. -/
def State.popEvent (s : State) : State := { s with events := s.events.tail }

/-- One event, after the guard of 60 R174: a state in contention is a fault (notes/assumptions/8.md). -/
def guardedEvent (e : PortEvent) (s : State) : Host.Outcome State Fault Refusal :=
  if s.contended then .fault .contention else handleEvent e s

/-- The port as it stands when the host presents the word `w` and the block is ready to accept it at the next edge:
the state that `State.withFetchWord` answers (notes/assumptions/7.md). -/
def State.presentWord (s : State) (w : CommandWord) : State :=
  { s with
    phase := .idle
    rst := false
    cmdValid := true
    cmdOp := opField w
    cmdArg := argField w
    waiting := true
    events := .clkRise :: .withdraw :: s.events }

end Sys2Proof.Machine
end

