-- ==== Sys2Proof/Machine/Step.lean ====
section
/-! DEFINITION. One step of the machine: the next port event (spec/30_encoding.md R70 to R74), which is most often a
rising edge of `clk`. -/

namespace Sys2Proof.Machine

/-- One port event. -/
def step (s : State) : Host.Outcome State Fault Refusal :=
  mapNext State.popEvent (guardedEvent s.nextEvent s)

/-- `s` with the command word of bits `w` presented on the command port, accepted by the very next step, and withdrawn
after it. The block has no program counter (10_state.md R37): its next instruction is what the host presents
(notes/assumptions/7.md). -/
def State.withFetchWord (s : State) (_nbits w : Nat) : State := s.presentWord (BitVec.ofNat 20 w)

end Sys2Proof.Machine
end

