-- ==== Sys2Proof/Machine/Assembler.lean ====
section
/-! DEFINITION. The assembler of host command lines (spec/30_encoding.md R88): a mnemonic, then the operand if any,
then optionally a comment. What R88 leaves open of the text's form: notes/assumptions/16.md. -/

namespace Sys2Proof.Machine

/-- R88: the mnemonics, the names of R80. -/
inductive Mnemonic where
  | setAddress
  | setData
  | getData
  | enableCs
  | disableCs
  | csumClear
  | csumAdd
  | csumRead
deriving DecidableEq, Repr

/-- R88: upper case, matched exactly. -/
def mnemonicText : Mnemonic → List Char
  | .setAddress => ['S', 'E', 'T', '_', 'A', 'D', 'D', 'R', 'E', 'S', 'S']
  | .setData => ['S', 'E', 'T', '_', 'D', 'A', 'T', 'A']
  | .getData => ['G', 'E', 'T', '_', 'D', 'A', 'T', 'A']
  | .enableCs => ['E', 'N', 'A', 'B', 'L', 'E', '_', 'C', 'S']
  | .disableCs => ['D', 'I', 'S', 'A', 'B', 'L', 'E', '_', 'C', 'S']
  | .csumClear => ['C', 'S', 'U', 'M', '_', 'C', 'L', 'E', 'A', 'R']
  | .csumAdd => ['C', 'S', 'U', 'M', '_', 'A', 'D', 'D']
  | .csumRead => ['C', 'S', 'U', 'M', '_', 'R', 'E', 'A', 'D']

/-- All mnemonics of R80. -/
def allMnemonics : List Mnemonic :=
  [.setAddress, .setData, .getData, .enableCs, .disableCs, .csumClear, .csumAdd, .csumRead]

/-- R88: a command with its immediate, which must fit its width unsigned; none is a refused line. -/
def assembleInstr (m : Mnemonic) (imm : Option Nat) : Option Instr :=
  match m, imm with
  | .setAddress, some n => if n < 2 ^ 16 then some (.setAddress (BitVec.ofNat 16 n)) else none
  | .setData, some n => if n < 2 ^ 8 then some (.setData (BitVec.ofNat 8 n)) else none
  | .csumAdd, some n => if n < 2 ^ 8 then some (.csumAdd (BitVec.ofNat 8 n)) else none
  | .getData, none => some .getData
  | .enableCs, none => some .enableCs
  | .disableCs, none => some .disableCs
  | .csumClear, none => some .csumClear
  | .csumRead, none => some .csumRead
  | .setAddress, none => none
  | .setData, none => none
  | .csumAdd, none => none
  | .getData, some _ => none
  | .enableCs, some _ => none
  | .disableCs, some _ => none
  | .csumClear, some _ => none
  | .csumRead, some _ => none

/-- R88: the assembled word. -/
def assembleWord (m : Mnemonic) (imm : Option Nat) : Option CommandWord := (assembleInstr m imm).map encode

/-- What a line assembles to. -/
inductive Assembled where
  /-- Only a comment, or nothing. -/
  | blank
  | word (cw : CommandWord)
  /-- R88: the line is refused by the assembler. -/
  | refused
deriving DecidableEq, Repr

/-- The value of a digit, for the three bases of R88. -/
def digitValue (c : Char) : Option Nat :=
  if 48 ≤ c.toNat ∧ c.toNat ≤ 57 then some (c.toNat - 48)
  else if 97 ≤ c.toNat ∧ c.toNat ≤ 102 then some (c.toNat - 87)
  else if 65 ≤ c.toNat ∧ c.toNat ≤ 70 then some (c.toNat - 55)
  else none

/-- The digits' value after `acc`; none at a character that is no digit of the base. -/
def digitsValue (base : Nat) (acc : Nat) : List Char → Option Nat
  | [] => some acc
  | c :: cs =>
    match digitValue c with
    | some d => if d < base then digitsValue base (base * acc + d) cs else none
    | none => none

/-- A nonempty run of digits. -/
def numberValue (base : Nat) (cs : List Char) : Option Nat := if cs = [] then none else digitsValue base 0 cs

/-- R88: a literal: hexadecimal, binary, decimal, or an ASCII character between apostrophes (character 39). -/
def literalValue (cs : List Char) : Option Nat :=
  match cs with
  | '0' :: 'x' :: ds => numberValue 16 ds
  | '0' :: 'b' :: ds => numberValue 2 ds
  | [q, c, r] =>
    if q.toNat = 39 ∧ r.toNat = 39 then (if c.toNat < 128 then some c.toNat else none) else numberValue 10 cs
  | _ => numberValue 10 cs

/-- White space between the parts of a line. -/
def isBlankChar (c : Char) : Bool := c = ' ' || c = '\t'

/-- The parts of a line between blanks. -/
def lineParts (cs : List Char) : List (List Char) :=
  (cs.foldr
    (fun c acc =>
      if isBlankChar c then [] :: acc
      else
        match acc with
        | [] => [[c]]
        | part :: parts => (c :: part) :: parts)
    [[]]).filter (· ≠ [])

/-- The mnemonic of this text, if any (R88: matched exactly). -/
def mnemonicOf (cs : List Char) : Option Mnemonic := allMnemonics.find? fun m => mnemonicText m = cs

/-- A parsed command, or a refused line. -/
def assembleParts (m : Option Mnemonic) (imm : Option (Option Nat)) : Assembled :=
  match m, imm with
  | some m, some imm =>
    match assembleWord m imm with
    | some cw => .word cw
    | none => .refused
  | some _, none => .refused
  | none, _ => .refused

/-- R88: one line of a host command program. The comment starts at the line's first `;`, also where that stands
between apostrophes: DESIGN CHOICE, safe, R88 does not say (notes/assumptions/16.md). -/
def assembleLine (line : List Char) : Assembled :=
  match lineParts (line.takeWhile (· ≠ ';')) with
  | [] => .blank
  | [m] => assembleParts (mnemonicOf m) (some none)
  | [m, lit] => assembleParts (mnemonicOf m) ((literalValue lit).map some)
  | _ :: _ :: _ :: _ => .refused

end Sys2Proof.Machine
end

