-- ==== Sys2Proof/Machine/Command.lean ====
section
/-! DEFINITION. The block at command granularity (spec/41_cartridge_bus.md R132, R163) and the transition table of its
control FSM (R125). A command here is the port events with which a host presents one word, has it accepted and
completed, and withdraws it (notes/assumptions/17.md). -/

namespace Sys2Proof.Machine

/-- The events in order, each behind the guard of 60_exceptions.md R174. -/
def runEvents : List PortEvent → State → Host.Outcome State Fault Refusal
  | [], s => .next s
  | e :: es, s => bindNext (guardedEvent e s) (runEvents es)

/-- 70_reset_and_hazards.md R210: how many edges a word occupies. -/
def edgesOf (cw : CommandWord) : Nat :=
  match decode cw with
  | .command (.setAddress _) => 2
  | .command (.setData _) => 1
  | .command .getData => 1
  | .command .enableCs => 1
  | .command .disableCs => 1
  | .command .csumClear => 1
  | .command (.csumAdd _) => 1
  | .command .csumRead => 1
  | .illegal _ => 1

/-- `n` rising edges, with the command port as it stands. -/
def edgeEvents (n : Nat) : List PortEvent := List.replicate n .clkRise

/-- The host presents the word, it is accepted at the next edge, the host withdraws it, and the remaining edges of
the command go by. -/
def commandEvents (cw : CommandWord) : List PortEvent :=
  [.present (opField cw) (argField cw), .clkRise, .withdraw] ++ edgeEvents (edgesOf cw - 1)

/-- One whole command (R132, R163): from a state that is ready for it to the cycle in which its response is
visible. -/
def runCommand (cw : CommandWord) (s : State) : Host.Outcome State Fault Refusal := runEvents (commandEvents cw) s

/-- The commands of a list, one after the other (20_memory.md R60). -/
def runCommands : List CommandWord → State → Host.Outcome State Fault Refusal
  | [], s => .next s
  | cw :: cws, s => bindNext (runCommand cw s) (runCommands cws)

/-- R125: the FSM state after a legal command. -/
def fsmAfter (i : Instr) (f : FsmState) : FsmState :=
  match i with
  | .setAddress a =>
    match modeOf a with
    | .input => .inIdle
    | .output => .out
  | .setData _ => f
  | .getData => f
  | .enableCs =>
    match f with
    | .inIdle => .inSel
    | .inSel => .inSel
    | .out => .out
    | .forbidden => .out
  | .disableCs =>
    match f with
    | .inIdle => .inIdle
    | .inSel => .inIdle
    | .out => .out
    | .forbidden => .out
  | .csumClear => f
  | .csumAdd _ => f
  | .csumRead => f

/-- R125: the status of a legal command, given the FSM state before it. -/
def statusAfter (i : Instr) (f : FsmState) : BitVec 2 :=
  match i with
  | .setAddress _ => statusOk
  | .setData _ => statusOk
  | .getData => statusOk
  | .enableCs =>
    match f with
    | .inIdle => statusOk
    | .inSel => statusOk
    | .out => statusCsRefused
    | .forbidden => statusCsRefused
  | .disableCs => statusOk
  | .csumClear => statusOk
  | .csumAdd _ => statusOk
  | .csumRead => statusOk

/-- R125, the table at the level of words: the last row is an illegal word. -/
def fsmAfterWord (cw : CommandWord) (f : FsmState) : FsmState :=
  match decode cw with
  | .command i => fsmAfter i f
  | .illegal _ => f

/-- R125: the status of a word. -/
def statusAfterWord (cw : CommandWord) (f : FsmState) : BitVec 2 :=
  match decode cw with
  | .command i => statusAfter i f
  | .illegal _ => statusIllegal

/-- The bytes that a list of words adds to `ACC` (40_checksum.md R103). -/
def addedBytes (cws : List CommandWord) : List Byte :=
  cws.filterMap fun cw =>
    match decode cw with
    | .command (.csumAdd b) => some b
    | .command (.setAddress _) => none
    | .command (.setData _) => none
    | .command .getData => none
    | .command .enableCs => none
    | .command .disableCs => none
    | .command .csumClear => none
    | .command .csumRead => none
    | .illegal _ => none

end Sys2Proof.Machine
end

