-- ==== Sys2Proof/Machine/HostProgram.lean ====
section
/-! DEFINITION. The host's side of the port as the spec describes it: lines, the pseudo-instructions
(spec/30_encoding.md R92), host programs with the directives of R89, and the end of a run
(spec/70_reset_and_hazards.md R217). The block has no control flow of its own (41_cartridge_bus.md R162). -/

namespace Sys2Proof.Machine

/-- A line that reaches the port: a word presented, or `IDLE n` (R89). The host may issue any word, legal or not
(70 R215). -/
inductive HostLine where
  | word (cw : CommandWord)
  | idle (n : Nat)
deriving DecidableEq, Repr

/-- A legal command as a line. -/
def commandLine (i : Instr) : HostLine := .word (encode i)

/-- R89 `IDLE n`: no command is presented (`cmd_valid = 0`) for `n` cycles; with `n = 0` it is empty (R92). The host
withdraws what stands on the port, so a word it must still hold (70 R206) is not dropped: `withdrawAt` refuses it. -/
def idleEvents : Nat → List PortEvent
  | 0 => []
  | n + 1 => .withdraw :: edgeEvents (n + 1)

/-- The port events of a line. -/
def lineEvents : HostLine → List PortEvent
  | .word cw => commandEvents cw
  | .idle n => idleEvents n

/-- The port events of the lines, in order. -/
def linesEvents (ls : List HostLine) : List PortEvent := ls.flatMap lineEvents

/-- R92 `READ a16`: with the idle cycles of the access-time duty (70 R201) in input mode. -/
def readLines (a : Word16) : List HostLine :=
  match modeOf a with
  | .input =>
    [commandLine (.setAddress a), commandLine .enableCs, .idle (Config.tAccCycles - 1), commandLine .getData]
  | .output => [commandLine (.setAddress a), commandLine .getData]

/-- R92 `EMULATE a16, imm8`. -/
def emulateLines (a : Word16) (v : Byte) : List HostLine := [commandLine (.setAddress a), commandLine (.setData v)]

/-- R92 `RELEASE`. -/
def releaseLines : List HostLine := [commandLine .disableCs]

/-- R92 `CHECKSUM b0, ..., bn`. -/
def checksumLines (bytes : List Byte) : List HostLine :=
  [commandLine .csumClear] ++ bytes.map (fun b => commandLine (.csumAdd b)) ++ [commandLine .csumRead]

/-- R92 `READ_SEQ a16, n`: for `i` = 0 to `n-1`, `READ (a16 + i) mod 2^16`. -/
def readSeqLines (a : Word16) (n : Nat) : List HostLine :=
  (List.range n).flatMap fun i => readLines (add16 a (BitVec.ofNat 16 i))

/-- A host program under way. -/
structure HostRun where
  /-- The block now. -/
  state : State
  /-- The responses so far, in order. -/
  responses : List Response
  /-- The values the host has named (R89), the last naming first. -/
  values : List (Nat × Nat)
  /-- The block in the cycle in which the response to the last command so far is visible (70 R217). -/
  answered : Option State
deriving DecidableEq, Repr

/-- Before a host program's first line. -/
def HostRun.start (s : State) : HostRun where
  state := s
  responses := []
  values := []
  answered := none

/-- Why a host program stops before its end. -/
inductive HostStop where
  /-- The block's own fault. -/
  | fault (r : Fault)
  /-- The block's own refusal. -/
  | refused (r : Refusal)
  /-- R88: the assembler refuses the line (an operand that does not fit, or a missing one). -/
  | lineRefused
  /-- A value is used that no line has named. -/
  | unnamedValue
  /-- R89: there is no preceding command whose response could be named. -/
  | noResponse
deriving DecidableEq, Repr

/-- One line: its events, and its response if it presents a word. -/
def HostRun.line (l : HostLine) (r : HostRun) : Except HostStop HostRun :=
  match runEvents (lineEvents l) r.state with
  | .next s =>
    match l with
    | .word _ => .ok { r with state := s, responses := r.responses ++ [⟨s.rspStatus, s.rspData⟩], answered := some s }
    | .idle _ => .ok { r with state := s }
  | .fault f => .error (.fault f)
  | .refused f => .error (.refused f)

/-- Lines in order. -/
def HostRun.lines : List HostLine → HostRun → Except HostStop HostRun
  | [], r => .ok r
  | l :: ls, r =>
    match r.line l with
    | .ok r' => HostRun.lines ls r'
    | .error e => .error e

/-- A value in a host program: a constant, a named response, or a sum (notes/assumptions/15.md). -/
inductive HostExpr where
  | const (n : Nat)
  | named (x : Nat)
  | add (e f : HostExpr)
deriving DecidableEq, Repr

/-- A condition of the directive `if` (R89; notes/assumptions/15.md). -/
inductive HostCond where
  | eq (e f : HostExpr)
  | lt (e f : HostExpr)
  | not (c : HostCond)
deriving DecidableEq, Repr

/-- A host program: R88's lines and R89's directives. Values are named by numbers. -/
inductive HostProg where
  | skip
  /-- A command line whose immediate is a value. -/
  | command (m : Mnemonic) (imm : Option HostExpr)
  /-- Lines with fixed words, a pseudo-instruction of R92 among them. -/
  | lines (ls : List HostLine)
  /-- `IDLE n`. -/
  | idle (n : HostExpr)
  /-- `x <- rsp`. -/
  | nameRsp (x : Nat)
  | seq (p q : HostProg)
  /-- `repeat n`, the pass's number from 0 named `x`. -/
  | loop (n : Nat) (x : Nat) (body : HostProg)
  /-- `if c`. -/
  | cond (c : HostCond) (body : HostProg)
deriving DecidableEq, Repr

/-- The value named `x`, the last naming first. -/
def namedValue (x : Nat) (values : List (Nat × Nat)) : Option Nat := (values.find? fun p => p.1 = x).map Prod.snd

/-- A value, or none if it uses a value no line has named. -/
def exprValue (values : List (Nat × Nat)) : HostExpr → Option Nat
  | .const n => some n
  | .named x => namedValue x values
  | .add e f =>
    match exprValue values e, exprValue values f with
    | some m, some n => some (m + n)
    | some _, none => none
    | none, _ => none

/-- Whether two values stand in a relation. -/
def compareValues (p : Nat → Nat → Bool) (a b : Option Nat) : Option Bool :=
  match a, b with
  | some m, some n => some (p m n)
  | some _, none => none
  | none, _ => none

/-- A condition, or none if it uses a value no line has named. -/
def condValue (values : List (Nat × Nat)) : HostCond → Option Bool
  | .eq e f => compareValues (fun m n => m = n) (exprValue values e) (exprValue values f)
  | .lt e f => compareValues (fun m n => m < n) (exprValue values e) (exprValue values f)
  | .not c => (condValue values c).map (!·)

/-- A command line with its immediate's value. -/
def HostRun.commandLine (m : Mnemonic) (imm : Option Nat) (r : HostRun) : Except HostStop HostRun :=
  match assembleWord m imm with
  | some cw => r.line (.word cw)
  | none => .error .lineRefused

/-- `x <- rsp` (R89): the `RSP_DATA` of the preceding command. -/
def HostRun.nameRsp (x : Nat) (r : HostRun) : Except HostStop HostRun :=
  match r.responses.getLast? with
  | some rsp => .ok { r with values := (x, rsp.data.toNat) :: r.values }
  | none => .error .noResponse

/-- `f` for `i` = 0 to `n-1`, in order. -/
def forPasses (f : Nat → HostRun → Except HostStop HostRun) : Nat → HostRun → Except HostStop HostRun
  | 0, r => .ok r
  | n + 1, r =>
    match forPasses f n r with
    | .ok r' => f n r'
    | .error e => .error e

/-- The run of a host program from a state that is ready for a command. -/
def HostProg.run : HostProg → HostRun → Except HostStop HostRun
  | .skip, r => .ok r
  | .command m none, r => r.commandLine m none
  | .command m (some e), r =>
    match exprValue r.values e with
    | some n => r.commandLine m (some n)
    | none => .error .unnamedValue
  | .lines ls, r => r.lines ls
  | .idle e, r =>
    match exprValue r.values e with
    | some n => r.line (.idle n)
    | none => .error .unnamedValue
  | .nameRsp x, r => r.nameRsp x
  | .seq p q, r =>
    match p.run r with
    | .ok r' => q.run r'
    | .error e => .error e
  | .loop n x body, r => forPasses (fun i r' => body.run { r' with values := (x, i) :: r'.values }) n r
  | .cond c body, r =>
    match condValue r.values c with
    | some true => body.run r
    | some false => .ok r
    | none => .error .unnamedValue

/-- 70 R217: the end of a host program's run. -/
structure HostEnd where
  /-- The block, so its registers and the pins they give, in the cycle in which the response to the program's last
  command is visible. None where no command was issued: R217 names no end for that (notes/assumptions/21.md). -/
  state : Option State
  /-- The responses, in order. -/
  responses : List Response
deriving DecidableEq, Repr

/-- 70 R217: what lines after the last command do is after the end. -/
def HostRun.finish (r : HostRun) : HostEnd where
  state := r.answered
  responses := r.responses

/-- 70 R217: the end of a host program's run from a state that is ready for a command. -/
def HostProg.endOfRun (p : HostProg) (s : State) : Except HostStop HostEnd :=
  match p.run (HostRun.start s) with
  | .ok r => .ok r.finish
  | .error e => .error e

end Sys2Proof.Machine
end

