-- ==== Sys2Proof/Safety.lean ====
section
/-! DEFINITION. What the claims speak of: the safety invariant (spec/10_state.md R29), the reset state (R35), states
ready for a command, and the duties of the host and the platform (spec/70_reset_and_hazards.md R201, R202, R206). -/

namespace Sys2Proof.Machine

/-- 10 R29: `not (DRIVE = 1 and CS = 1)`. -/
def State.Safe (s : State) : Prop := ¬ (s.drive = true ∧ s.cs = true)

/-- The safety invariant with what carries it through SET_ADDRESS (41 R160: "`CS` is 0 from phase A and no command
runs between the phases"). -/
def State.Inv (s : State) : Prop := s.Safe ∧ (s.phase = .saB → s.cs = false)

/-- 10 R35: every register but `PEND` (unspecified) is at its reset value. -/
def State.AtReset (s : State) : Prop :=
  s.addr = 0x000#12 ∧ s.drive = false ∧ s.shadow = 0x00#8 ∧ s.cs = false ∧ s.acc = 0x0000#16 ∧ s.phase = .idle ∧
    s.rspValid = false ∧ s.rspStatus = statusOk ∧ s.rspData = 0x0000#16

/-- Between commands (30 R73, 70 R206): the block is ready, and no earlier presented word still has to be accepted. -/
def State.Ready (s : State) : Prop := s.rst = false ∧ s.phase = .idle ∧ s.mustHold = false

/-- 70 R201: a GET_DATA accepted at the next edge reads a selected cartridge that has had its access time. -/
def State.AccessTimeMet (s : State) : Prop :=
  s.drive = false ∧ s.cs = true ∧ Config.tAccCycles ≤ s.edge - s.accessFrom

/-- 70 R202: the platform's choice of the `clk` period. Read by no step. -/
def ClockPeriodMet : Prop := Config.tBbm ≤ Config.clkPeriod

/-- The next event is not a rising `rst`, and the block is out of reset. -/
def State.RunsOutsideReset (s : State) : Prop := s.rst = false ∧ s.nextEvent ≠ .rstRise

/-- The next step is a rising edge at which the block is ready for a command (30 R72, R73). -/
def State.EdgeReady (s : State) : Prop := s.contended = false ∧ s.nextEvent = .clkRise ∧ s.cmdReady = true

/-- The next step is the edge that accepts the command `i` (30 R72). -/
def State.AcceptsNext (s : State) (i : Instr) : Prop :=
  s.EdgeReady ∧ s.cmdValid = true ∧ decode s.portWord = .command i

/-- The next step is the edge at which a command completes (30 R74): phase B of a SET_ADDRESS, or the accepting edge
of any other word. -/
def State.CompletesNext (s : State) : Prop :=
  s.nextEvent = .clkRise ∧ s.rst = false ∧
    (s.phase = .saB ∨ s.phase = .idle ∧ s.cmdValid = true ∧ ∀ a, decode s.portWord ≠ .command (.setAddress a))

/-- The bus registers of a state replaced (10 R21 to R24, R27). -/
def State.withBus (s : State) (addr : Location) (drive : Bool) (shadow : Byte) (cs : Bool) (pend : Word16) : State :=
  { s with addr := addr, drive := drive, shadow := shadow, cs := cs, pend := pend }

/-- The port events to come replaced (the model's own field). -/
def State.withEvents (s : State) (es : List PortEvent) : State := { s with events := es }

/-- The commands of 40_checksum.md; the others are those of 41_cartridge_bus.md (30 R80). -/
def isChecksumCommand : Instr → Bool
  | .setAddress _ => false
  | .setData _ => false
  | .getData => false
  | .enableCs => false
  | .disableCs => false
  | .csumClear => true
  | .csumAdd _ => true
  | .csumRead => true

end Sys2Proof.Machine
end

