-- ==== Sys2Proof/Certificates/Slice0/Obligations.lean ====
section
/-! DEFINITION. The statements for the provers. Each docstring names the rules of spec/ it formalises. A rising edge
of `clk` is the event `.clkRise` at the head of the state's events (notes/assumptions/4.md), and `edge`, `waiting`,
`accessFrom` and `events` are the model's own fields (notes/assumptions/5.md): a clause about them is the model's. -/

open Sys2Proof Sys2Proof.Machine

/-! ### Encoding -/

/-- 30 R81, R88: decoding the word of a command gives the command, for every operand. -/
def Obligations.DecodeOfEncode : Prop :=
  ∀ i : Instr, decode (encode i) = .command i

/-- 30 R77, R81 to R83: a word decodes to a command only if it is that command's own word, and the words that decode
to some command are those whose op is assigned and whose reserved bits are 0. -/
def Obligations.DecodeAcceptsExactlyTheWellFormedWords : Prop :=
  ∀ cw : CommandWord,
    (∀ i, decode cw = .command i → encode i = cw) ∧
    ((∃ i, decode cw = .command i) ↔ wellFormedFields (opField cw) (argField cw) = true)

/-- 30 R80: the word selects a row of the opcode map exactly if it decodes to a command of that row; so no word
selects two rows. -/
def Obligations.OpcodeMapSelectsTheDecodedRow : Prop :=
  ∀ (cw : CommandWord) (k : Fin 8) (r : OpcodeRow), opcodeRows[k.val]? = some r →
    (cw &&& r.mask = r.pattern ↔ ∃ i, decode cw = .command i ∧ rowOf i = k)

/-- 30 R80, R82, R83: words written out from the encodings of the spec. -/
def Obligations.SpecWordsDecode : Prop :=
  decode 0x11ABC#20 = .command (.setAddress 0x1ABC#16) ∧
  decode 0x20042#20 = .command (.setData 0x42#8) ∧
  decode 0x30000#20 = .command .getData ∧
  decode 0x900BC#20 = .command (.csumAdd 0xBC#8) ∧
  decode 0xA8000#20 = .illegal .reservedBits ∧
  decode 0x00000#20 = .illegal .unassignedOp

/-- 30 R88: the assembled word is `(op << 16) | imm`; an immediate that does not fit its width is refused. -/
def Obligations.AssembledWordIsOpcodeAndImmediate : Prop :=
  (∀ n, assembleWord .setAddress (some n) = if n < 65536 then some (BitVec.ofNat 20 (0x1 * 65536 + n)) else none) ∧
  (∀ n, assembleWord .setData (some n) = if n < 256 then some (BitVec.ofNat 20 (0x2 * 65536 + n)) else none) ∧
  (∀ n, assembleWord .csumAdd (some n) = if n < 256 then some (BitVec.ofNat 20 (0x9 * 65536 + n)) else none) ∧
  assembleWord .getData none = some 0x30000#20 ∧
  assembleWord .enableCs none = some 0x40000#20 ∧
  assembleWord .disableCs none = some 0x50000#20 ∧
  assembleWord .csumClear none = some 0x80000#20 ∧
  assembleWord .csumRead none = some 0xA0000#20

/-! ### Reset -/

/-- 10 R35: reset sets every register; `PEND` is unspecified there, so nothing is said of it. -/
def Obligations.ResetStateIsTheResetTable : Prop :=
  State.reset.addr = 0x000#12 ∧ State.reset.drive = false ∧ State.reset.shadow = 0x00#8 ∧ State.reset.cs = false ∧
  State.reset.acc = 0x0000#16 ∧ State.reset.phase = .idle ∧ State.reset.rspValid = false ∧
  State.reset.rspStatus = 0b00#2 ∧ State.reset.rspData = 0x0000#16 ∧
  State.reset.fsm = .inIdle ∧
  State.reset.cartPins = { a := 0x000#12, dOut := 0x00#8, dOe := false, dPull := 0x00#8, cs := false }

/-- 70 R191, R192: a rising `rst` acts at once, without an edge: every register takes its reset value, the
cartridge-side outputs are safe, a SET_ADDRESS between its phases is abandoned with no response. -/
def Obligations.RisingRstResetsAtOnce : Prop :=
  ∀ s : State, s.contended = false → s.nextEvent = .rstRise →
    ∃ t, step s = .next t ∧ t.rst = true ∧
      t.addr = 0x000#12 ∧ t.drive = false ∧ t.shadow = 0x00#8 ∧ t.cs = false ∧ t.acc = 0x0000#16 ∧
      t.phase = .idle ∧ t.rspValid = false ∧ t.rspStatus = 0b00#2 ∧ t.rspData = 0x0000#16 ∧
      t.cartPins = { a := 0x000#12, dOut := 0x00#8, dOe := false, dPull := 0x00#8, cs := false } ∧
      t.cmdReady = false

/-- 30 R71, 70 R193: a falling `rst` changes no register; the block is ready from then on if it is in phase IDLE.
That the level is seen before the next edge is DEDUCED from R73 (notes/assumptions/11.md). -/
def Obligations.FallingRstKeepsTheRegisters : Prop :=
  ∀ s : State, s.contended = false → s.nextEvent = .rstFall →
    step s = .next { s with rst := false, events := s.events.tail }

/-- 70 R190, R191: while `rst = 1`, and at once when it is asserted, every register but the unspecified `PEND` holds
its reset value, the FSM is in IN_IDLE and the cartridge-side outputs are safe: every step keeps this. -/
def Obligations.RegistersHoldResetValuesWhileRst : Prop :=
  ∀ s t : State, (s.rst = true → s.AtReset) → step s = .next t → t.rst = true →
    t.AtReset ∧ t.fsm = .inIdle ∧
    t.cartPins = { a := 0x000#12, dOut := 0x00#8, dOe := false, dPull := 0x00#8, cs := false }

/-! ### Commands at their accepting edge -/

/-- 41 R130: phase A of SET_ADDRESS, and the pins in the cycle after it: chip-select off, the old address and
direction. -/
def Obligations.SetAddressPhaseA : Prop :=
  ∀ (a : Word16) (s : State),
    exec (.setAddress a) s = .next { s with cs := false, pend := a, phase := .saB, rspValid := false } ∧
    ∀ t, exec (.setAddress a) s = .next t → t.cmdReady = false ∧ t.cartPins = { s.cartPins with cs := false }

/-- 41 R131: phase B of SET_ADDRESS, at the next edge. -/
def Obligations.SetAddressPhaseB : Prop :=
  ∀ s : State, s.contended = false → s.nextEvent = .clkRise → s.rst = false → s.phase = .saB →
    ∃ t, step s = .next t ∧
      t.drive = decide (s.pend.toNat < Config.romBoundary) ∧ t.addr = s.pend.setWidth 12 ∧ t.phase = .idle ∧
      t.rspValid = true ∧ t.rspStatus = 0b00#2 ∧ t.rspData = 0x0000#16 ∧
      t.cs = s.cs ∧ t.shadow = s.shadow ∧ t.acc = s.acc ∧ t.pend = s.pend

/-- 41 R132, R161: SET_ADDRESS completes: its accepting edge and the next one, with no command between, whatever the
state was, leave chip-select off, the direction of the full argument and the location of its low 12 bits. -/
def Obligations.SetAddressCompletesAtTheNextEdge : Prop :=
  ∀ (a : Word16) (s : State), s.rst = false →
    ∃ t u, exec (.setAddress a) s = .next t ∧ clockEdge t = .next u ∧
      u.cs = false ∧ u.drive = (if a.toNat ≥ Config.romBoundary then false else true) ∧ u.addr = a.setWidth 12 ∧
      u.rspValid = true ∧ u.rspStatus = 0b00#2 ∧ u.rspData = 0x0000#16 ∧
      u.phase = .idle ∧ u.shadow = s.shadow ∧ u.acc = s.acc

/-- 41 R140: SET_DATA, in either mode, and what the lines show: `value` driven in output mode, `value` as pull-ups in
input mode. -/
def Obligations.SetDataResult : Prop :=
  ∀ (v : Byte) (s : State),
    exec (.setData v) s =
      .next { s with shadow := v, rspValid := true, rspStatus := 0b00#2, rspData := 0x0000#16 } ∧
    ∀ t, exec (.setData v) s = .next t →
      t.cartPins = { s.cartPins with dOut := v, dPull := if s.drive then 0x00#8 else v }

/-- 41 R145: GET_DATA answers a byte, zero-extended, and changes nothing but the response; in output mode the byte is
`SHADOW`, in input mode any byte (the draw: nothing is said of it). -/
def Obligations.GetDataResult : Prop :=
  ∀ s : State, ∃ v : Byte,
    exec .getData s = .next { s with rspValid := true, rspStatus := 0b00#2, rspData := v.setWidth 16 } ∧
    (s.drive = true → v = s.shadow)

/-- 41 R145, R146: in input mode GET_DATA answers the data lines sampled at this edge; the sample is the model's free
value `Config.cartDIn`, its arguments the model's choice (notes/assumptions/3.md). -/
def Obligations.GetDataSamplesTheLinesInInputMode : Prop :=
  ∀ s : State, s.drive = false →
    exec .getData s =
      .next { s with
        rspValid := true
        rspStatus := 0b00#2
        rspData := (Config.cartDIn s.edge
          { a := s.addr, dOut := s.shadow, dOe := false, dPull := s.shadow, cs := s.cs }).setWidth 16 }

/-- 41 R150: ENABLE_CS: selected with OK in input mode, refused and deselected in output mode. -/
def Obligations.EnableCsResult : Prop :=
  ∀ s : State, ∃ t, exec .enableCs s = .next t ∧
    t.cs = !s.drive ∧ t.rspValid = true ∧ t.rspStatus = (if s.drive then 0b01#2 else 0b00#2) ∧ t.rspData = 0x0000#16 ∧
    t.addr = s.addr ∧ t.drive = s.drive ∧ t.shadow = s.shadow ∧ t.acc = s.acc ∧ t.phase = s.phase ∧ t.pend = s.pend

/-- 41 R152: DISABLE_CS, in every state. -/
def Obligations.DisableCsResult : Prop :=
  ∀ s : State,
    exec .disableCs s = .next { s with cs := false, rspValid := true, rspStatus := 0b00#2, rspData := 0x0000#16 }

/-- 40 R101: CSUM_CLEAR. -/
def Obligations.CsumClearResult : Prop :=
  ∀ s : State,
    exec .csumClear s = .next { s with acc := 0x0000#16, rspValid := true, rspStatus := 0b00#2, rspData := 0x0000#16 }

/-- 40 R102: CSUM_ADD: the exact sum reduced modulo 2^16. -/
def Obligations.CsumAddResult : Prop :=
  ∀ (b : Byte) (s : State),
    exec (.csumAdd b) s =
      .next { s with
        acc := BitVec.ofNat 16 ((s.acc.toNat + b.toNat) % 65536)
        rspValid := true
        rspStatus := 0b00#2
        rspData := 0x0000#16 }

/-- 40 R104: CSUM_READ: `ACC` in the response, and unchanged. -/
def Obligations.CsumReadResult : Prop :=
  ∀ s : State, exec .csumRead s = .next { s with rspValid := true, rspStatus := 0b00#2, rspData := s.acc }

/-- The frame of every command at its accepting edge (30 R70: the input ports are the host's; the rest are the model's
own fields): no command writes them. -/
def Obligations.CommandsLeaveThePortsAlone : Prop :=
  ∀ (i : Instr) (s t : State), exec i s = .next t →
    t.rst = s.rst ∧ t.cmdValid = s.cmdValid ∧ t.cmdOp = s.cmdOp ∧ t.cmdArg = s.cmdArg ∧
    t.events = s.events ∧ t.waiting = s.waiting ∧ t.edge = s.edge

/-! ### Steps -/

/-- 30 R72: at a rising edge with the block ready and a legal word presented, the step is that command; around it
the edge is counted, nothing waits any more, and the event is over (the model's own fields). -/
def Obligations.StepRunsTheDecodedCommand : Prop :=
  ∀ (s : State) (i : Instr), s.contended = false → s.nextEvent = .clkRise → s.rst = false → s.phase = .idle →
    s.cmdValid = true → decode s.portWord = .command i →
    step s =
      mapNext (fun t => { t with edge := t.edge + 1, waiting := false, events := t.events.tail }) (exec i s)

/-- 30 R82, R83, 60 R171: a word with an unassigned op or a nonzero reserved bit is performed as the illegal command:
response (ILLEGAL, 0x0000) and no other register changes. -/
def Obligations.IllegalWordOnlyAnswersIllegal : Prop :=
  ∀ s : State, s.EdgeReady → s.cmdValid = true →
    (s.cmdOp ∈ [0x0#4, 0x6#4, 0x7#4, 0xB#4, 0xC#4, 0xD#4, 0xE#4, 0xF#4] ∨
      s.cmdOp ∈ [0x2#4, 0x9#4] ∧ s.cmdArg.extractLsb' 8 8 ≠ 0#8 ∨
      s.cmdOp ∈ [0x3#4, 0x4#4, 0x5#4, 0x8#4, 0xA#4] ∧ s.cmdArg ≠ 0#16) →
    ∃ t, step s = .next t ∧ t.rspValid = true ∧ t.rspStatus = 0b10#2 ∧ t.rspData = 0x0000#16 ∧
      t.addr = s.addr ∧ t.drive = s.drive ∧ t.shadow = s.shadow ∧ t.cs = s.cs ∧ t.acc = s.acc ∧
      t.phase = s.phase ∧ t.pend = s.pend

/-- 60 R184: with `cmd_valid = 0` no register changes at an edge except `RSP_VALID <- 0`, and no pin changes. -/
def Obligations.IdleEdgeOnlyEndsTheResponse : Prop :=
  ∀ s : State, s.EdgeReady → s.cmdValid = false →
    ∃ t, step s = .next t ∧ t.rspValid = false ∧ t.rspStatus = s.rspStatus ∧ t.rspData = s.rspData ∧
      t.addr = s.addr ∧ t.drive = s.drive ∧ t.shadow = s.shadow ∧ t.cs = s.cs ∧ t.acc = s.acc ∧
      t.phase = s.phase ∧ t.pend = s.pend ∧ t.cartPins = s.cartPins

/-- 30 R72, 60 R173: at an edge with `cmd_ready = 0` the word on the port has no effect: the step is the one it would
be with anything else on the port; the word stays presented and waits. Under reset the unspecified `PEND` is the same
in both by the model's choice (notes/assumptions/2.md: a free value of the edge and of what `PEND` held). -/
def Obligations.WordPresentedWhileNotReadyWaits : Prop :=
  ∀ (s : State) (v : Bool) (op : BitVec 4) (arg : Word16),
    s.contended = false → s.nextEvent = .clkRise → s.cmdReady = false →
    ∃ t, step s = .next t ∧ t.cmdValid = s.cmdValid ∧ t.cmdOp = s.cmdOp ∧ t.cmdArg = s.cmdArg ∧
      t.waiting = s.cmdValid ∧
      step { s with cmdValid := v, cmdOp := op, cmdArg := arg } =
        .next { t with cmdValid := v, cmdOp := op, cmdArg := arg, waiting := v }

/-- 30 R72, 70 R206, R215, U8: the host's moves on the command port: while a presented word has not been accepted,
withdrawing it or presenting another is refused; every other move sets the port and changes no register. -/
def Obligations.HostMovesOnTheCommandPort : Prop :=
  ∀ s : State, s.contended = false →
    (s.nextEvent = .withdraw →
      step s =
        if s.cmdValid = true ∧ s.waiting = true then .refused .hostChangedCommand
        else .next { s with cmdValid := false, waiting := false, events := s.events.tail }) ∧
    (∀ op arg, s.nextEvent = .present op arg →
      step s =
        if (s.cmdValid = true ∧ s.waiting = true) ∧ ¬(s.cmdOp = op ∧ s.cmdArg = arg) then
          .refused .hostChangedCommand
        else
          .next { s with cmdValid := true, cmdOp := op, cmdArg := arg, waiting := true, events := s.events.tail })

/-- 60 R174: a state with `DRIVE = 1` and `CS = 1` is the fault `Contention`, and nothing else is a fault. -/
def Obligations.ContentionIsTheOnlyFault : Prop :=
  ∀ (s : State) (r : Fault), step s = .fault r ↔ (s.drive = true ∧ s.cs = true) ∧ r = .contention

/-- 30 R74: outside reset, an edge gives a response exactly if a command completes at it (phase B, or a word that is
accepted and is no SET_ADDRESS); at every other edge the last response's status and data stay. -/
def Obligations.ResponseExactlyAtCompletion : Prop :=
  ∀ s t : State, s.nextEvent = .clkRise → s.rst = false → step s = .next t →
    (t.rspValid = true ↔
      s.phase = .saB ∨ s.phase = .idle ∧ s.cmdValid = true ∧ ∀ a, decode s.portWord ≠ .command (.setAddress a)) ∧
    (t.rspValid = false → t.rspStatus = s.rspStatus ∧ t.rspData = s.rspData)

/-- The model's own fetch (notes/assumptions/7.md, 14.md): a word of the opcode table that decodes is what the very
next step runs once it is placed on the port. -/
def Obligations.PlacedWordRunsNext : Prop :=
  ∀ (s : State) (n w : Nat) (i : Instr), s.contended = false → decodeTableWord n w = some i →
    step (s.withFetchWord n w) =
      mapNext (fun t => { t with edge := t.edge + 1, waiting := false, events := t.events.tail })
        (exec i (s.withFetchWord n w))

/-! ### Invariants -/

/-- 10 R29, 41 R160: every step keeps the safety invariant, with what carries it between the two edges of SET_ADDRESS:
`CS = 0` there. -/
def Obligations.StepKeepsTheSafetyInvariant : Prop :=
  ∀ s t : State, ¬(s.drive = true ∧ s.cs = true) ∧ (s.phase = .saB → s.cs = false) → step s = .next t →
    ¬(t.drive = true ∧ t.cs = true) ∧ (t.phase = .saB → t.cs = false)

/-- 41 R160: reset meets the safety invariant, and no SET_ADDRESS is between its phases there (10 R35). -/
def Obligations.SafetyInvariantAtReset : Prop := State.reset.Inv ∧ State.reset.phase = .idle

/-- 10 R29, 60 R174: from a state that meets the invariant no number of steps, with any port events, ends in a
fault. -/
def Obligations.NoRunEndsInContention : Prop :=
  ∀ (n : Nat) (s : State) (r : Fault), s.Inv → Host.Core.run Sys2Proof.core n s ≠ .fault r

/-- 30 R84: the code 0b11 is never given: every step keeps `RSP_STATUS` one of OK, CS_REFUSED, ILLEGAL. -/
def Obligations.StatusStaysAGivenCode : Prop :=
  ∀ s t : State, s.rspStatus ≠ 0b11#2 → step s = .next t → t.rspStatus ≠ 0b11#2

/-! ### The whole machine -/

/-- 41 R125: the transition table of the control FSM, for every word from every state between commands. -/
def Obligations.FsmTransitionTable : Prop :=
  ∀ (cw : CommandWord) (s : State), s.Ready → s.Safe →
    ∃ t, runCommand cw s = .next t ∧ t.Ready ∧ t.Safe ∧ t.rspValid = true ∧
      t.fsm = fsmAfterWord cw s.fsm ∧ t.rspStatus = statusAfterWord cw s.fsm

/-- 30 R75, 70 R210: SET_ADDRESS occupies two edges, every other word one, and the response is visible in the cycle
after the last. -/
def Obligations.CommandsTakeTheirCycles : Prop :=
  ∀ (cw : CommandWord) (s : State), s.Ready → s.Safe →
    ∃ t, runCommand cw s = .next t ∧ t.rspValid = true ∧
      ((∃ a, decode cw = .command (.setAddress a)) → t.edge = s.edge + 2) ∧
      ((∀ a, decode cw ≠ .command (.setAddress a)) → t.edge = s.edge + 1)

/-- 10 R20 to R28 (the columns "written by"), 30 R74: outside reset a step changes a register only by the commands
named for it: `ADDR` and `DRIVE` by phase B, `SHADOW` by SET_DATA, `CS` by phase A, ENABLE_CS and DISABLE_CS, `ACC` by
CSUM_CLEAR and CSUM_ADD, `PHASE` by the two phases, `PEND` by phase A; the response is written where a command
completes, and an edge at which none does only ends it. -/
def Obligations.RegistersHaveOnlyTheirWriters : Prop :=
  ∀ s t : State, s.RunsOutsideReset → step s = .next t →
    (t.addr ≠ s.addr ∨ t.drive ≠ s.drive → s.nextEvent = .clkRise ∧ s.phase = .saB) ∧
    (t.shadow ≠ s.shadow → ∃ v, s.AcceptsNext (.setData v)) ∧
    (t.cs ≠ s.cs → (∃ a, s.AcceptsNext (.setAddress a)) ∨ s.AcceptsNext .enableCs ∨ s.AcceptsNext .disableCs) ∧
    (t.acc ≠ s.acc → s.AcceptsNext .csumClear ∨ ∃ b, s.AcceptsNext (.csumAdd b)) ∧
    (t.phase ≠ s.phase → s.nextEvent = .clkRise ∧ s.phase = .saB ∨ ∃ a, s.AcceptsNext (.setAddress a)) ∧
    (t.pend ≠ s.pend → ∃ a, s.AcceptsNext (.setAddress a)) ∧
    (t.rspValid ≠ s.rspValid → s.nextEvent = .clkRise) ∧
    (t.rspValid ≠ s.rspValid ∧ t.rspValid = true ∨ t.rspStatus ≠ s.rspStatus ∨ t.rspData ≠ s.rspData →
      s.CompletesNext)

/-- 70 R202, at one step: where the block begins to drive, the cartridge was deselected just before, and is after;
where the cartridge becomes selected, the block was not driving just before, and is not after. -/
def Obligations.BreakBeforeMake : Prop :=
  ∀ s t : State, s.Inv → step s = .next t →
    (s.drive = false → t.drive = true → s.cs = false ∧ t.cs = false) ∧
    (s.cs = false → t.cs = true → s.drive = false ∧ t.drive = false)

/-- 70 R202: break before make: between two edges outside reset, where the block begins to drive at the second, the
cartridge is deselected in the whole `clk` period between them, from the first edge on; where the cartridge becomes
selected at the second, the block does not drive in that whole period. The period is its moments `u`: after any first
part `p` of the host's moves in it. -/
def Obligations.FullPeriodBetweenSelectAndDrive : Prop :=
  ∀ (s t u v w : State) (p q : List PortEvent), s.Inv → s.rst = false → clockEdge s = .next t →
    (∀ e ∈ p ++ q, e = .withdraw ∨ ∃ op arg, e = .present op arg) →
    runEvents p t = .next u → runEvents q u = .next v → clockEdge v = .next w →
    (v.drive = false → w.drive = true → t.cs = false ∧ u.cs = false ∧ v.cs = false ∧ w.cs = false) ∧
    (v.cs = false → w.cs = true → t.drive = false ∧ u.drive = false ∧ v.drive = false ∧ w.drive = false)

/-- 70 R203: outside reset the address lines change only at phase B of a SET_ADDRESS, with the cartridge deselected
before and after, and chip-select is asserted only by an accepted ENABLE_CS. -/
def Obligations.AddressChangesOnlyDeselected : Prop :=
  ∀ s t : State, s.Inv → s.RunsOutsideReset → step s = .next t →
    (t.addr ≠ s.addr → s.phase = .saB ∧ s.cs = false ∧ t.cs = false) ∧
    (s.cs = false → t.cs = true → s.AcceptsNext .enableCs ∧ t.addr = s.addr)

/-- 20 R52: every location is reachable in both modes, by the arguments the rule names; 20 R51: arguments that differ
only in bits 15..12 select the same location. -/
def Obligations.EveryLocationInBothModes : Prop :=
  (∀ l : Location,
    driveOf (l.setWidth 16) = true ∧ maskAddress (l.setWidth 16) = l ∧
    driveOf (0x1000#16 + l.setWidth 16) = false ∧ maskAddress (0x1000#16 + l.setWidth 16) = l) ∧
  (∀ a b : Word16, a.toNat % 4096 = b.toNat % 4096 → maskAddress a = maskAddress b) ∧
  (∀ a : Word16, driveOf a = true ↔ a.toNat < 0x1000)

/-- 10 R31, R32: the cartridge-side outputs are functions of the registers alone: the data lines driven in output mode
only, the pull-ups in input mode only. -/
def Obligations.CartridgeSideOutputs : Prop :=
  ∀ s : State,
    s.cartPins =
      { a := s.addr, dOut := s.shadow, dOe := s.drive, dPull := if s.drive = false then s.shadow else 0x00#8,
        cs := s.cs }

/-- 10 R30, as the spec marks it "this spec's reading" (D30): address line `i` carries bit `i` of `ADDR`, and data line
`i` bit `i` of `SHADOW` where the block drives (R31) and nothing of the block's where it does not. -/
def Obligations.LinesCarryTheRegistersBitByBit : Prop :=
  ∀ s : State,
    (∀ i : Fin 12, s.addressLine i = s.addr.getLsb i) ∧
    (∀ i : Fin 8, s.dataLine i = if s.drive = true then some (s.shadow.getLsb i) else none)

/-! ### The checksum -/

/-- 40 R105: the value of the function, and that of the empty sequence. -/
def Obligations.ChecksumIsTheSumModulo : Prop :=
  (∀ bytes : List Byte, (checksum bytes).toNat = (bytes.map BitVec.toNat).sum % 65536) ∧ checksum [] = 0x0000#16

/-- 40 R110: the order of the bytes does not matter. -/
def Obligations.ChecksumIgnoresOrder : Prop :=
  ∀ b c : List Byte, b.Perm c → checksum b = checksum c

/-- 40 R111: the sums of two parts add up. -/
def Obligations.ChecksumOfConcatenation : Prop :=
  ∀ h p : List Byte, checksum (h ++ p) = add16 (checksum h) (checksum p)

/-- 40 R112, 20 R53: the frame checksum does not depend on the wire's byte order, and is the checksum of header and
payload in one sequence. -/
def Obligations.FrameChecksumIgnoresWireEndian : Prop :=
  ∀ (e : WireEndian) (h : FrameHeader) (p : List Byte),
    wireFrameChecksum h p = frameChecksum e h p ∧ frameChecksum e h p = checksum (headerBytes e h ++ p)

/-- 40 R103: after a CSUM_CLEAR, or from `ACC = 0` as reset leaves it, and then any words among which there is no
CSUM_CLEAR, `ACC` is the checksum of the bytes that the CSUM_ADDs among them add. -/
def Obligations.AccHoldsTheChecksumOfTheAddedBytes : Prop :=
  ∀ (cws : List CommandWord) (s : State), s.Ready → s.Safe → (∀ cw ∈ cws, decode cw ≠ .command .csumClear) →
    (∃ t, runCommands (encode .csumClear :: cws) s = .next t ∧ t.acc = checksum (addedBytes cws)) ∧
    (s.acc = 0x0000#16 → ∃ t, runCommands cws s = .next t ∧ t.acc = checksum (addedBytes cws))

/-- 40 R113: bus commands neither read nor write `ACC`: with another value in it every sequence of words without a
checksum command goes the same way and leaves that value. A GET_DATA in input mode among them samples the same byte in
both runs by the model's choice (notes/assumptions/3.md: the draw is a function of the edge and the pins); R113 does
not say that two draws agree. -/
def Obligations.BusCommandsIgnoreAcc : Prop :=
  ∀ (cws : List CommandWord) (s : State) (v : Word16), s.Ready →
    (∀ cw ∈ cws, ∀ i, decode cw = .command i → isChecksumCommand i = false) →
    runCommands cws { s with acc := v } = mapNext (fun t => { t with acc := v }) (runCommands cws s)

/-- 40 R113: checksum commands neither read nor write a bus register, and so change no pin: with other values in them
every sequence of checksum commands and illegal words goes the same way and leaves those values. -/
def Obligations.ChecksumCommandsIgnoreTheBus : Prop :=
  ∀ (cws : List CommandWord) (s : State) (addr : Location) (drive : Bool) (shadow : Byte) (cs : Bool) (pend : Word16),
    s.Ready → s.Safe → ¬(drive = true ∧ cs = true) →
    (∀ cw ∈ cws, ∀ i, decode cw = .command i → isChecksumCommand i = true) →
    runCommands cws (s.withBus addr drive shadow cs pend) =
      mapNext (fun t => t.withBus addr drive shadow cs pend) (runCommands cws s)

/-! ### The host's sequences -/

/-- 30 R92 `CHECKSUM`, 40 R103: the pseudo-instruction answers the checksum of its bytes and leaves the bus as it
was. -/
def Obligations.ChecksumMacroAnswersTheChecksum : Prop :=
  ∀ (bytes : List Byte) (s : State), s.Ready → s.Safe →
    ∃ t, runEvents (linesEvents (checksumLines bytes)) s = .next t ∧
      t.response = some ⟨0b00#2, checksum bytes⟩ ∧ t.cartPins = s.cartPins ∧ t.Ready

/-- 41 R155, 30 R92 `READ`, 70 R201, R210: at or above the boundary the read protocol samples the selected cartridge
at the argument's location, in `3 + T_ACC_CYCLES` edges, its access time met at the GET_DATA; below the boundary it
answers `SHADOW`. The sample is the model's free value (notes/assumptions/3.md), the edge the access time runs from
the model's own field (13.md), a whole command the model's form (17.md). -/
def Obligations.ReadProtocolAnswersTheByte : Prop :=
  ∀ (a : Word16) (s : State), s.Ready → s.Safe →
    (Config.romBoundary ≤ a.toNat →
      ∃ t, runEvents (linesEvents (readLines a)) s = .next t ∧
        t.response = some ⟨0b00#2, (Config.cartDIn (s.edge + 2 + Config.tAccCycles)
          { a := a.setWidth 12, dOut := s.shadow, dOe := false, dPull := s.shadow, cs := true }).setWidth 16⟩ ∧
        t.fsm = .inSel ∧ t.addr = a.setWidth 12 ∧ t.edge = s.edge + 3 + Config.tAccCycles) ∧
    (Config.romBoundary ≤ a.toNat →
      ∃ u, runEvents (linesEvents
          [commandLine (.setAddress a), commandLine .enableCs, .idle (Config.tAccCycles - 1)]) s = .next u ∧
        u.AccessTimeMet) ∧
    (a.toNat < Config.romBoundary →
      ∃ t, runEvents (linesEvents (readLines a)) s = .next t ∧
        t.response = some ⟨0b00#2, s.shadow.setWidth 16⟩ ∧ t.fsm = .out ∧ t.addr = a.setWidth 12)

/-- 41 R157: the emulated access: the lines carry the address and the host's byte, with chip-select deasserted. -/
def Obligations.EmulateDrivesTheByte : Prop :=
  ∀ (a : Word16) (v : Byte) (s : State), s.Ready → s.Safe → a.toNat < Config.romBoundary →
    ∃ t, runEvents (linesEvents (emulateLines a v)) s = .next t ∧
      t.cartPins = { a := a.setWidth 12, dOut := v, dOe := true, dPull := 0x00#8, cs := false }

/-- 70 R216, 30 R92 `READ_SEQ`: a block of reads that lies below the boundary answers `SHADOW` for every byte (whole
commands as notes/assumptions/17.md). -/
def Obligations.ReadSeqBelowTheBoundaryAnswersShadow : Prop :=
  ∀ (a : Word16) (n : Nat) (s : State), s.Ready → s.Safe → a.toNat + n ≤ Config.romBoundary →
    ∃ r, HostRun.lines (readSeqLines a n) (HostRun.start s) = .ok r ∧
      r.responses = (List.replicate n [⟨0b00#2, 0x0000#16⟩, ⟨0b00#2, s.shadow.setWidth 16⟩]).flatten

/-- 30 R89 `IDLE n`, 60 R184: for `n` edges no command is presented, so none is accepted, whatever stood on the port;
no register and no pin changes but that the response ends. `IDLE 0` is empty (30 R92). -/
def Obligations.IdleLineAcceptsNothing : Prop :=
  ∀ (n : Nat) (s : State), s.Ready → s.Safe →
    runEvents (lineEvents (.idle 0)) s = .next s ∧
    ∃ t, runEvents (lineEvents (.idle (n + 1))) s = .next t ∧ t.Ready ∧ t.cmdValid = false ∧
      t.edge = s.edge + (n + 1) ∧
      t.rspValid = false ∧ t.rspStatus = s.rspStatus ∧ t.rspData = s.rspData ∧
      t.addr = s.addr ∧ t.drive = s.drive ∧ t.shadow = s.shadow ∧ t.cs = s.cs ∧ t.acc = s.acc ∧
      t.pend = s.pend ∧ t.cartPins = s.cartPins

/-- 70 R217: the end of a host program's run is a cycle in which a response is visible, and that response is the last of
the run's responses; there is no such cycle exactly if there were no responses (the model's form,
notes/assumptions/17.md, 21.md). -/
def Obligations.RunEndsAtItsLastResponse : Prop :=
  ∀ (p : HostProg) (s : State) (e : HostEnd), s.Ready → s.Safe → p.endOfRun s = .ok e →
    (∀ t, e.state = some t → t.rspValid = true ∧ t.response = e.responses.getLast?) ∧
    (e.state = none ↔ e.responses = [])

/-- 70 R217: idle cycles after the last command are no part of the run: it ends where it ends without them (the
model's form, notes/assumptions/17.md, 21.md). -/
def Obligations.RunEndsBeforeTrailingIdles : Prop :=
  ∀ (p : HostProg) (n : Nat) (s : State), s.Ready → s.Safe →
    (HostProg.seq p (.idle (.const n))).endOfRun s = p.endOfRun s

/-- 41 R163 (the model's form of it, notes/assumptions/4.md, 17.md): the machine that steps per port event does what
the events of the host's sequence do, in as many steps, and is then at the events that follow. -/
def Obligations.StepsFollowTheEvents : Prop :=
  ∀ (evs rest : List PortEvent) (s : State), s.events = evs ++ rest →
    Host.Core.run Sys2Proof.core evs.length s =
      mapNext (fun t => t.withEvents rest) (runEvents evs s)
end

