-- ==== Sys2Proof/Laws/PerInstr.lean ====
section
/-! SUPPORT. Statements made once per constructor of `Instr`: the family `EncodedWord` (spec/30_encoding.md R77, R80,
R88). -/

namespace Sys2Proof.Laws.EncodedWord

/-- The encoded word carries the command's opcode and argument in its two fields (R76), and both are well-formed: the
op is assigned and the reserved bits are 0 (R77, R83). -/
def Statement (i : Instr) : Prop :=
  opField (encode i) = opOf i ∧ argField (encode i) = argOf i ∧ wellFormedFields (opOf i) (argOf i) = true

/-- The fields of a word put together from them (R72, R76). -/
theorem fields_of_commandWord (op : BitVec 4) (arg : Word16) :
    opField (commandWord op arg) = op ∧ argField (commandWord op arg) = arg :=
  ⟨BitVec.extractLsb'_append_eq_left, BitVec.extractLsb'_append_eq_right⟩

/-- A byte in the low half leaves the reserved high half 0 (R77). -/
theorem reserved_of_byte (b : Byte) : b.setWidth 16 &&& 0xFF00#16 = 0#16 := by
  revert b
  decide

theorem of_wellFormed (i : Instr) (h : wellFormedFields (opOf i) (argOf i) = true) : Statement i :=
  ⟨(fields_of_commandWord _ _).1, (fields_of_commandWord _ _).2, h⟩

theorem setAddress (addr : Word16) : Statement (.setAddress addr) :=
  of_wellFormed _ (by simp [wellFormedFields, opAssigned, reservedZero, reservedMask, opOf])

theorem setData (value : Byte) : Statement (.setData value) :=
  of_wellFormed _
    (by simpa [wellFormedFields, opAssigned, reservedZero, reservedMask, opOf, argOf] using reserved_of_byte value)

theorem getData : Statement .getData := of_wellFormed _ (by decide)

theorem enableCs : Statement .enableCs := of_wellFormed _ (by decide)

theorem disableCs : Statement .disableCs := of_wellFormed _ (by decide)

theorem csumClear : Statement .csumClear := of_wellFormed _ (by decide)

theorem csumAdd (byte : Byte) : Statement (.csumAdd byte) :=
  of_wellFormed _
    (by simpa [wellFormedFields, opAssigned, reservedZero, reservedMask, opOf, argOf] using reserved_of_byte byte)

theorem csumRead : Statement .csumRead := of_wellFormed _ (by decide)

end Sys2Proof.Laws.EncodedWord
end

