-- ==== Sys2Proof/Laws/Decode.lean ====
section
/-! SUPPORT. The fields of a command word and its byte operand, taken apart and put together (spec/30_encoding.md
R76, R77). -/

namespace Sys2Proof

@[simp] theorem opField_commandWord (op : BitVec 4) (arg : Word16) : opField (commandWord op arg) = op :=
  (Laws.EncodedWord.fields_of_commandWord op arg).1

@[simp] theorem argField_commandWord (op : BitVec 4) (arg : Word16) : argField (commandWord op arg) = arg :=
  (Laws.EncodedWord.fields_of_commandWord op arg).2

/-- A word is put together from its two fields. -/
@[simp] theorem commandWord_fields (cw : CommandWord) : commandWord (opField cw) (argField cw) = cw := by
  apply BitVec.eq_of_getLsbD_eq
  intro i hi
  have happ : ∀ j, (commandWord (opField cw) (argField cw)).getLsbD j =
      if j < 16 then (argField cw).getLsbD j else (opField cw).getLsbD (j - 16) := fun j => BitVec.getLsbD_append
  rw [happ]
  unfold opField argField
  by_cases h : i < 16
  · simp [h]
  · simp only [h, if_false, BitVec.getLsbD_extractLsb']
    rw [show 16 + (i - 16) = i by omega]
    simp
    omega

/-- A byte operand put in the low half: the high half is 0 and the byte reads back. -/
theorem byteOperand_setWidth (b : Byte) :
    (b.setWidth 16 : Word16).extractLsb' 8 8 = 0#8 ∧ byteOperand (b.setWidth 16) = b := by
  revert b
  decide

/-- An argument whose high half is 0 is its low byte. -/
theorem setWidth_byteOperand {arg : Word16} (h : arg.extractLsb' 8 8 = 0#8) : (byteOperand arg).setWidth 16 = arg := by
  apply BitVec.eq_of_getLsbD_eq
  intro i hi
  by_cases hlow : i < 8
  · simp [byteOperand, hlow]
    omega
  · have hz := congrArg (fun x => x.getLsbD (i - 8)) h
    simp only [BitVec.getLsbD_extractLsb', show 8 + (i - 8) = i by omega] at hz
    have : arg.getLsbD i = false := by simpa [show i - 8 < 8 by omega] using hz
    simp [byteOperand, hlow, this]

/-- The word on the port while the host presents `cw`. -/
theorem decode_commandWord (op : BitVec 4) (arg : Word16) : decode (commandWord op arg) = decodeFields op arg := by
  simp [decode]

end Sys2Proof
end

