-- ==== Sys2Proof/Laws/State.lean ====
section
/-! SUPPORT. One lemma per field per update of the state, so that no later proof unfolds a record update. -/

namespace Sys2Proof.Machine.State

variable (s : State)


/-! ### `respond` -/

@[simp] theorem respond_addr (st : BitVec 2) (d : Word16) : (s.respond st d).addr = s.addr := rfl
@[simp] theorem respond_drive (st : BitVec 2) (d : Word16) : (s.respond st d).drive = s.drive := rfl
@[simp] theorem respond_shadow (st : BitVec 2) (d : Word16) : (s.respond st d).shadow = s.shadow := rfl
@[simp] theorem respond_cs (st : BitVec 2) (d : Word16) : (s.respond st d).cs = s.cs := rfl
@[simp] theorem respond_acc (st : BitVec 2) (d : Word16) : (s.respond st d).acc = s.acc := rfl
@[simp] theorem respond_phase (st : BitVec 2) (d : Word16) : (s.respond st d).phase = s.phase := rfl
@[simp] theorem respond_pend (st : BitVec 2) (d : Word16) : (s.respond st d).pend = s.pend := rfl
@[simp] theorem respond_rspValid (st : BitVec 2) (d : Word16) : (s.respond st d).rspValid = true := rfl
@[simp] theorem respond_rspStatus (st : BitVec 2) (d : Word16) : (s.respond st d).rspStatus = st := rfl
@[simp] theorem respond_rspData (st : BitVec 2) (d : Word16) : (s.respond st d).rspData = d := rfl
@[simp] theorem respond_rst (st : BitVec 2) (d : Word16) : (s.respond st d).rst = s.rst := rfl
@[simp] theorem respond_cmdValid (st : BitVec 2) (d : Word16) : (s.respond st d).cmdValid = s.cmdValid := rfl
@[simp] theorem respond_cmdOp (st : BitVec 2) (d : Word16) : (s.respond st d).cmdOp = s.cmdOp := rfl
@[simp] theorem respond_cmdArg (st : BitVec 2) (d : Word16) : (s.respond st d).cmdArg = s.cmdArg := rfl
@[simp] theorem respond_events (st : BitVec 2) (d : Word16) : (s.respond st d).events = s.events := rfl
@[simp] theorem respond_waiting (st : BitVec 2) (d : Word16) : (s.respond st d).waiting = s.waiting := rfl
@[simp] theorem respond_edge (st : BitVec 2) (d : Word16) : (s.respond st d).edge = s.edge := rfl
@[simp] theorem respond_accessFrom (st : BitVec 2) (d : Word16) : (s.respond st d).accessFrom = s.accessFrom := rfl

/-! ### `noResponse` -/

@[simp] theorem noResponse_addr : (s.noResponse).addr = s.addr := rfl
@[simp] theorem noResponse_drive : (s.noResponse).drive = s.drive := rfl
@[simp] theorem noResponse_shadow : (s.noResponse).shadow = s.shadow := rfl
@[simp] theorem noResponse_cs : (s.noResponse).cs = s.cs := rfl
@[simp] theorem noResponse_acc : (s.noResponse).acc = s.acc := rfl
@[simp] theorem noResponse_phase : (s.noResponse).phase = s.phase := rfl
@[simp] theorem noResponse_pend : (s.noResponse).pend = s.pend := rfl
@[simp] theorem noResponse_rspValid : (s.noResponse).rspValid = false := rfl
@[simp] theorem noResponse_rspStatus : (s.noResponse).rspStatus = s.rspStatus := rfl
@[simp] theorem noResponse_rspData : (s.noResponse).rspData = s.rspData := rfl
@[simp] theorem noResponse_rst : (s.noResponse).rst = s.rst := rfl
@[simp] theorem noResponse_cmdValid : (s.noResponse).cmdValid = s.cmdValid := rfl
@[simp] theorem noResponse_cmdOp : (s.noResponse).cmdOp = s.cmdOp := rfl
@[simp] theorem noResponse_cmdArg : (s.noResponse).cmdArg = s.cmdArg := rfl
@[simp] theorem noResponse_events : (s.noResponse).events = s.events := rfl
@[simp] theorem noResponse_waiting : (s.noResponse).waiting = s.waiting := rfl
@[simp] theorem noResponse_edge : (s.noResponse).edge = s.edge := rfl
@[simp] theorem noResponse_accessFrom : (s.noResponse).accessFrom = s.accessFrom := rfl

/-! ### `illegalCommand` -/

@[simp] theorem illegalCommand_addr : (s.illegalCommand).addr = s.addr := rfl
@[simp] theorem illegalCommand_drive : (s.illegalCommand).drive = s.drive := rfl
@[simp] theorem illegalCommand_shadow : (s.illegalCommand).shadow = s.shadow := rfl
@[simp] theorem illegalCommand_cs : (s.illegalCommand).cs = s.cs := rfl
@[simp] theorem illegalCommand_acc : (s.illegalCommand).acc = s.acc := rfl
@[simp] theorem illegalCommand_phase : (s.illegalCommand).phase = s.phase := rfl
@[simp] theorem illegalCommand_pend : (s.illegalCommand).pend = s.pend := rfl
@[simp] theorem illegalCommand_rspValid : (s.illegalCommand).rspValid = true := rfl
@[simp] theorem illegalCommand_rspStatus : (s.illegalCommand).rspStatus = statusIllegal := rfl
@[simp] theorem illegalCommand_rspData : (s.illegalCommand).rspData = noData := rfl
@[simp] theorem illegalCommand_rst : (s.illegalCommand).rst = s.rst := rfl
@[simp] theorem illegalCommand_cmdValid : (s.illegalCommand).cmdValid = s.cmdValid := rfl
@[simp] theorem illegalCommand_cmdOp : (s.illegalCommand).cmdOp = s.cmdOp := rfl
@[simp] theorem illegalCommand_cmdArg : (s.illegalCommand).cmdArg = s.cmdArg := rfl
@[simp] theorem illegalCommand_events : (s.illegalCommand).events = s.events := rfl
@[simp] theorem illegalCommand_waiting : (s.illegalCommand).waiting = s.waiting := rfl
@[simp] theorem illegalCommand_edge : (s.illegalCommand).edge = s.edge := rfl
@[simp] theorem illegalCommand_accessFrom : (s.illegalCommand).accessFrom = s.accessFrom := rfl

/-! ### `resetRegisters` -/

@[simp] theorem resetRegisters_addr : (s.resetRegisters).addr = 0x000#12 := rfl
@[simp] theorem resetRegisters_drive : (s.resetRegisters).drive = false := rfl
@[simp] theorem resetRegisters_shadow : (s.resetRegisters).shadow = 0x00#8 := rfl
@[simp] theorem resetRegisters_cs : (s.resetRegisters).cs = false := rfl
@[simp] theorem resetRegisters_acc : (s.resetRegisters).acc = 0x0000#16 := rfl
@[simp] theorem resetRegisters_phase : (s.resetRegisters).phase = .idle := rfl
@[simp] theorem resetRegisters_pend : (s.resetRegisters).pend = Config.pendAfterReset s.edge s.pend := rfl
@[simp] theorem resetRegisters_rspValid : (s.resetRegisters).rspValid = false := rfl
@[simp] theorem resetRegisters_rspStatus : (s.resetRegisters).rspStatus = statusOk := rfl
@[simp] theorem resetRegisters_rspData : (s.resetRegisters).rspData = noData := rfl
@[simp] theorem resetRegisters_rst : (s.resetRegisters).rst = s.rst := rfl
@[simp] theorem resetRegisters_cmdValid : (s.resetRegisters).cmdValid = s.cmdValid := rfl
@[simp] theorem resetRegisters_cmdOp : (s.resetRegisters).cmdOp = s.cmdOp := rfl
@[simp] theorem resetRegisters_cmdArg : (s.resetRegisters).cmdArg = s.cmdArg := rfl
@[simp] theorem resetRegisters_events : (s.resetRegisters).events = s.events := rfl
@[simp] theorem resetRegisters_waiting : (s.resetRegisters).waiting = s.waiting := rfl
@[simp] theorem resetRegisters_edge : (s.resetRegisters).edge = s.edge := rfl
@[simp] theorem resetRegisters_accessFrom : (s.resetRegisters).accessFrom = s.accessFrom := rfl

/-! ### `setCs` -/

@[simp] theorem setCs_addr (b : Bool) : (s.setCs b).addr = s.addr := rfl
@[simp] theorem setCs_drive (b : Bool) : (s.setCs b).drive = s.drive := rfl
@[simp] theorem setCs_shadow (b : Bool) : (s.setCs b).shadow = s.shadow := rfl
@[simp] theorem setCs_cs (b : Bool) : (s.setCs b).cs = b := rfl
@[simp] theorem setCs_acc (b : Bool) : (s.setCs b).acc = s.acc := rfl
@[simp] theorem setCs_phase (b : Bool) : (s.setCs b).phase = s.phase := rfl
@[simp] theorem setCs_pend (b : Bool) : (s.setCs b).pend = s.pend := rfl
@[simp] theorem setCs_rspValid (b : Bool) : (s.setCs b).rspValid = s.rspValid := rfl
@[simp] theorem setCs_rspStatus (b : Bool) : (s.setCs b).rspStatus = s.rspStatus := rfl
@[simp] theorem setCs_rspData (b : Bool) : (s.setCs b).rspData = s.rspData := rfl
@[simp] theorem setCs_rst (b : Bool) : (s.setCs b).rst = s.rst := rfl
@[simp] theorem setCs_cmdValid (b : Bool) : (s.setCs b).cmdValid = s.cmdValid := rfl
@[simp] theorem setCs_cmdOp (b : Bool) : (s.setCs b).cmdOp = s.cmdOp := rfl
@[simp] theorem setCs_cmdArg (b : Bool) : (s.setCs b).cmdArg = s.cmdArg := rfl
@[simp] theorem setCs_events (b : Bool) : (s.setCs b).events = s.events := rfl
@[simp] theorem setCs_waiting (b : Bool) : (s.setCs b).waiting = s.waiting := rfl
@[simp] theorem setCs_edge (b : Bool) : (s.setCs b).edge = s.edge := rfl
@[simp] theorem setCs_accessFrom (b : Bool) : (s.setCs b).accessFrom = s.accessFrom := rfl

/-! ### `setShadow` -/

@[simp] theorem setShadow_addr (v : Byte) : (s.setShadow v).addr = s.addr := rfl
@[simp] theorem setShadow_drive (v : Byte) : (s.setShadow v).drive = s.drive := rfl
@[simp] theorem setShadow_shadow (v : Byte) : (s.setShadow v).shadow = v := rfl
@[simp] theorem setShadow_cs (v : Byte) : (s.setShadow v).cs = s.cs := rfl
@[simp] theorem setShadow_acc (v : Byte) : (s.setShadow v).acc = s.acc := rfl
@[simp] theorem setShadow_phase (v : Byte) : (s.setShadow v).phase = s.phase := rfl
@[simp] theorem setShadow_pend (v : Byte) : (s.setShadow v).pend = s.pend := rfl
@[simp] theorem setShadow_rspValid (v : Byte) : (s.setShadow v).rspValid = s.rspValid := rfl
@[simp] theorem setShadow_rspStatus (v : Byte) : (s.setShadow v).rspStatus = s.rspStatus := rfl
@[simp] theorem setShadow_rspData (v : Byte) : (s.setShadow v).rspData = s.rspData := rfl
@[simp] theorem setShadow_rst (v : Byte) : (s.setShadow v).rst = s.rst := rfl
@[simp] theorem setShadow_cmdValid (v : Byte) : (s.setShadow v).cmdValid = s.cmdValid := rfl
@[simp] theorem setShadow_cmdOp (v : Byte) : (s.setShadow v).cmdOp = s.cmdOp := rfl
@[simp] theorem setShadow_cmdArg (v : Byte) : (s.setShadow v).cmdArg = s.cmdArg := rfl
@[simp] theorem setShadow_events (v : Byte) : (s.setShadow v).events = s.events := rfl
@[simp] theorem setShadow_waiting (v : Byte) : (s.setShadow v).waiting = s.waiting := rfl
@[simp] theorem setShadow_edge (v : Byte) : (s.setShadow v).edge = s.edge := rfl
@[simp] theorem setShadow_accessFrom (v : Byte) : (s.setShadow v).accessFrom = s.accessFrom := rfl

/-! ### `setAcc` -/

@[simp] theorem setAcc_addr (v : Word16) : (s.setAcc v).addr = s.addr := rfl
@[simp] theorem setAcc_drive (v : Word16) : (s.setAcc v).drive = s.drive := rfl
@[simp] theorem setAcc_shadow (v : Word16) : (s.setAcc v).shadow = s.shadow := rfl
@[simp] theorem setAcc_cs (v : Word16) : (s.setAcc v).cs = s.cs := rfl
@[simp] theorem setAcc_acc (v : Word16) : (s.setAcc v).acc = v := rfl
@[simp] theorem setAcc_phase (v : Word16) : (s.setAcc v).phase = s.phase := rfl
@[simp] theorem setAcc_pend (v : Word16) : (s.setAcc v).pend = s.pend := rfl
@[simp] theorem setAcc_rspValid (v : Word16) : (s.setAcc v).rspValid = s.rspValid := rfl
@[simp] theorem setAcc_rspStatus (v : Word16) : (s.setAcc v).rspStatus = s.rspStatus := rfl
@[simp] theorem setAcc_rspData (v : Word16) : (s.setAcc v).rspData = s.rspData := rfl
@[simp] theorem setAcc_rst (v : Word16) : (s.setAcc v).rst = s.rst := rfl
@[simp] theorem setAcc_cmdValid (v : Word16) : (s.setAcc v).cmdValid = s.cmdValid := rfl
@[simp] theorem setAcc_cmdOp (v : Word16) : (s.setAcc v).cmdOp = s.cmdOp := rfl
@[simp] theorem setAcc_cmdArg (v : Word16) : (s.setAcc v).cmdArg = s.cmdArg := rfl
@[simp] theorem setAcc_events (v : Word16) : (s.setAcc v).events = s.events := rfl
@[simp] theorem setAcc_waiting (v : Word16) : (s.setAcc v).waiting = s.waiting := rfl
@[simp] theorem setAcc_edge (v : Word16) : (s.setAcc v).edge = s.edge := rfl
@[simp] theorem setAcc_accessFrom (v : Word16) : (s.setAcc v).accessFrom = s.accessFrom := rfl

/-! ### `markAccess` -/

@[simp] theorem markAccess_addr : (s.markAccess).addr = s.addr := rfl
@[simp] theorem markAccess_drive : (s.markAccess).drive = s.drive := rfl
@[simp] theorem markAccess_shadow : (s.markAccess).shadow = s.shadow := rfl
@[simp] theorem markAccess_cs : (s.markAccess).cs = s.cs := rfl
@[simp] theorem markAccess_acc : (s.markAccess).acc = s.acc := rfl
@[simp] theorem markAccess_phase : (s.markAccess).phase = s.phase := rfl
@[simp] theorem markAccess_pend : (s.markAccess).pend = s.pend := rfl
@[simp] theorem markAccess_rspValid : (s.markAccess).rspValid = s.rspValid := rfl
@[simp] theorem markAccess_rspStatus : (s.markAccess).rspStatus = s.rspStatus := rfl
@[simp] theorem markAccess_rspData : (s.markAccess).rspData = s.rspData := rfl
@[simp] theorem markAccess_rst : (s.markAccess).rst = s.rst := rfl
@[simp] theorem markAccess_cmdValid : (s.markAccess).cmdValid = s.cmdValid := rfl
@[simp] theorem markAccess_cmdOp : (s.markAccess).cmdOp = s.cmdOp := rfl
@[simp] theorem markAccess_cmdArg : (s.markAccess).cmdArg = s.cmdArg := rfl
@[simp] theorem markAccess_events : (s.markAccess).events = s.events := rfl
@[simp] theorem markAccess_waiting : (s.markAccess).waiting = s.waiting := rfl
@[simp] theorem markAccess_edge : (s.markAccess).edge = s.edge := rfl
@[simp] theorem markAccess_accessFrom : (s.markAccess).accessFrom = s.edge := rfl

/-! ### `startSetAddress` -/

@[simp] theorem startSetAddress_addr (a : Word16) : (s.startSetAddress a).addr = s.addr := rfl
@[simp] theorem startSetAddress_drive (a : Word16) : (s.startSetAddress a).drive = s.drive := rfl
@[simp] theorem startSetAddress_shadow (a : Word16) : (s.startSetAddress a).shadow = s.shadow := rfl
@[simp] theorem startSetAddress_cs (a : Word16) : (s.startSetAddress a).cs = false := rfl
@[simp] theorem startSetAddress_acc (a : Word16) : (s.startSetAddress a).acc = s.acc := rfl
@[simp] theorem startSetAddress_phase (a : Word16) : (s.startSetAddress a).phase = .saB := rfl
@[simp] theorem startSetAddress_pend (a : Word16) : (s.startSetAddress a).pend = a := rfl
@[simp] theorem startSetAddress_rspValid (a : Word16) : (s.startSetAddress a).rspValid = s.rspValid := rfl
@[simp] theorem startSetAddress_rspStatus (a : Word16) : (s.startSetAddress a).rspStatus = s.rspStatus := rfl
@[simp] theorem startSetAddress_rspData (a : Word16) : (s.startSetAddress a).rspData = s.rspData := rfl
@[simp] theorem startSetAddress_rst (a : Word16) : (s.startSetAddress a).rst = s.rst := rfl
@[simp] theorem startSetAddress_cmdValid (a : Word16) : (s.startSetAddress a).cmdValid = s.cmdValid := rfl
@[simp] theorem startSetAddress_cmdOp (a : Word16) : (s.startSetAddress a).cmdOp = s.cmdOp := rfl
@[simp] theorem startSetAddress_cmdArg (a : Word16) : (s.startSetAddress a).cmdArg = s.cmdArg := rfl
@[simp] theorem startSetAddress_events (a : Word16) : (s.startSetAddress a).events = s.events := rfl
@[simp] theorem startSetAddress_waiting (a : Word16) : (s.startSetAddress a).waiting = s.waiting := rfl
@[simp] theorem startSetAddress_edge (a : Word16) : (s.startSetAddress a).edge = s.edge := rfl
@[simp] theorem startSetAddress_accessFrom (a : Word16) : (s.startSetAddress a).accessFrom = s.accessFrom := rfl

/-! ### `finishSetAddress` -/

@[simp] theorem finishSetAddress_addr : (s.finishSetAddress).addr = maskAddress s.pend := rfl
@[simp] theorem finishSetAddress_drive : (s.finishSetAddress).drive = driveOf s.pend := rfl
@[simp] theorem finishSetAddress_shadow : (s.finishSetAddress).shadow = s.shadow := rfl
@[simp] theorem finishSetAddress_cs : (s.finishSetAddress).cs = s.cs := rfl
@[simp] theorem finishSetAddress_acc : (s.finishSetAddress).acc = s.acc := rfl
@[simp] theorem finishSetAddress_phase : (s.finishSetAddress).phase = .idle := rfl
@[simp] theorem finishSetAddress_pend : (s.finishSetAddress).pend = s.pend := rfl
@[simp] theorem finishSetAddress_rspValid : (s.finishSetAddress).rspValid = s.rspValid := rfl
@[simp] theorem finishSetAddress_rspStatus : (s.finishSetAddress).rspStatus = s.rspStatus := rfl
@[simp] theorem finishSetAddress_rspData : (s.finishSetAddress).rspData = s.rspData := rfl
@[simp] theorem finishSetAddress_rst : (s.finishSetAddress).rst = s.rst := rfl
@[simp] theorem finishSetAddress_cmdValid : (s.finishSetAddress).cmdValid = s.cmdValid := rfl
@[simp] theorem finishSetAddress_cmdOp : (s.finishSetAddress).cmdOp = s.cmdOp := rfl
@[simp] theorem finishSetAddress_cmdArg : (s.finishSetAddress).cmdArg = s.cmdArg := rfl
@[simp] theorem finishSetAddress_events : (s.finishSetAddress).events = s.events := rfl
@[simp] theorem finishSetAddress_waiting : (s.finishSetAddress).waiting = s.waiting := rfl
@[simp] theorem finishSetAddress_edge : (s.finishSetAddress).edge = s.edge := rfl
@[simp] theorem finishSetAddress_accessFrom : (s.finishSetAddress).accessFrom = s.accessFrom := rfl

/-! ### `phaseB` -/

@[simp] theorem phaseB_addr : (s.phaseB).addr = maskAddress s.pend := rfl
@[simp] theorem phaseB_drive : (s.phaseB).drive = driveOf s.pend := rfl
@[simp] theorem phaseB_shadow : (s.phaseB).shadow = s.shadow := rfl
@[simp] theorem phaseB_cs : (s.phaseB).cs = s.cs := rfl
@[simp] theorem phaseB_acc : (s.phaseB).acc = s.acc := rfl
@[simp] theorem phaseB_phase : (s.phaseB).phase = .idle := rfl
@[simp] theorem phaseB_pend : (s.phaseB).pend = s.pend := rfl
@[simp] theorem phaseB_rspValid : (s.phaseB).rspValid = true := rfl
@[simp] theorem phaseB_rspStatus : (s.phaseB).rspStatus = statusOk := rfl
@[simp] theorem phaseB_rspData : (s.phaseB).rspData = noData := rfl
@[simp] theorem phaseB_rst : (s.phaseB).rst = s.rst := rfl
@[simp] theorem phaseB_cmdValid : (s.phaseB).cmdValid = s.cmdValid := rfl
@[simp] theorem phaseB_cmdOp : (s.phaseB).cmdOp = s.cmdOp := rfl
@[simp] theorem phaseB_cmdArg : (s.phaseB).cmdArg = s.cmdArg := rfl
@[simp] theorem phaseB_events : (s.phaseB).events = s.events := rfl
@[simp] theorem phaseB_waiting : (s.phaseB).waiting = s.waiting := rfl
@[simp] theorem phaseB_edge : (s.phaseB).edge = s.edge := rfl
@[simp] theorem phaseB_accessFrom : (s.phaseB).accessFrom = s.edge := rfl

/-! ### `endEdge` -/

@[simp] theorem endEdge_addr (b : Bool) : (s.endEdge b).addr = s.addr := rfl
@[simp] theorem endEdge_drive (b : Bool) : (s.endEdge b).drive = s.drive := rfl
@[simp] theorem endEdge_shadow (b : Bool) : (s.endEdge b).shadow = s.shadow := rfl
@[simp] theorem endEdge_cs (b : Bool) : (s.endEdge b).cs = s.cs := rfl
@[simp] theorem endEdge_acc (b : Bool) : (s.endEdge b).acc = s.acc := rfl
@[simp] theorem endEdge_phase (b : Bool) : (s.endEdge b).phase = s.phase := rfl
@[simp] theorem endEdge_pend (b : Bool) : (s.endEdge b).pend = s.pend := rfl
@[simp] theorem endEdge_rspValid (b : Bool) : (s.endEdge b).rspValid = s.rspValid := rfl
@[simp] theorem endEdge_rspStatus (b : Bool) : (s.endEdge b).rspStatus = s.rspStatus := rfl
@[simp] theorem endEdge_rspData (b : Bool) : (s.endEdge b).rspData = s.rspData := rfl
@[simp] theorem endEdge_rst (b : Bool) : (s.endEdge b).rst = s.rst := rfl
@[simp] theorem endEdge_cmdValid (b : Bool) : (s.endEdge b).cmdValid = s.cmdValid := rfl
@[simp] theorem endEdge_cmdOp (b : Bool) : (s.endEdge b).cmdOp = s.cmdOp := rfl
@[simp] theorem endEdge_cmdArg (b : Bool) : (s.endEdge b).cmdArg = s.cmdArg := rfl
@[simp] theorem endEdge_events (b : Bool) : (s.endEdge b).events = s.events := rfl
@[simp] theorem endEdge_waiting (b : Bool) : (s.endEdge b).waiting = (!b && s.cmdValid) := rfl
@[simp] theorem endEdge_edge (b : Bool) : (s.endEdge b).edge = s.edge + 1 := rfl
@[simp] theorem endEdge_accessFrom (b : Bool) : (s.endEdge b).accessFrom = s.accessFrom := rfl

/-! ### `raiseRst` -/

@[simp] theorem raiseRst_addr : (s.raiseRst).addr = 0x000#12 := rfl
@[simp] theorem raiseRst_drive : (s.raiseRst).drive = false := rfl
@[simp] theorem raiseRst_shadow : (s.raiseRst).shadow = 0x00#8 := rfl
@[simp] theorem raiseRst_cs : (s.raiseRst).cs = false := rfl
@[simp] theorem raiseRst_acc : (s.raiseRst).acc = 0x0000#16 := rfl
@[simp] theorem raiseRst_phase : (s.raiseRst).phase = .idle := rfl
@[simp] theorem raiseRst_pend : (s.raiseRst).pend = Config.pendAfterReset s.edge s.pend := rfl
@[simp] theorem raiseRst_rspValid : (s.raiseRst).rspValid = false := rfl
@[simp] theorem raiseRst_rspStatus : (s.raiseRst).rspStatus = statusOk := rfl
@[simp] theorem raiseRst_rspData : (s.raiseRst).rspData = noData := rfl
@[simp] theorem raiseRst_rst : (s.raiseRst).rst = true := rfl
@[simp] theorem raiseRst_cmdValid : (s.raiseRst).cmdValid = s.cmdValid := rfl
@[simp] theorem raiseRst_cmdOp : (s.raiseRst).cmdOp = s.cmdOp := rfl
@[simp] theorem raiseRst_cmdArg : (s.raiseRst).cmdArg = s.cmdArg := rfl
@[simp] theorem raiseRst_events : (s.raiseRst).events = s.events := rfl
@[simp] theorem raiseRst_waiting : (s.raiseRst).waiting = s.waiting := rfl
@[simp] theorem raiseRst_edge : (s.raiseRst).edge = s.edge := rfl
@[simp] theorem raiseRst_accessFrom : (s.raiseRst).accessFrom = s.accessFrom := rfl

/-! ### `lowerRst` -/

@[simp] theorem lowerRst_addr : (s.lowerRst).addr = s.addr := rfl
@[simp] theorem lowerRst_drive : (s.lowerRst).drive = s.drive := rfl
@[simp] theorem lowerRst_shadow : (s.lowerRst).shadow = s.shadow := rfl
@[simp] theorem lowerRst_cs : (s.lowerRst).cs = s.cs := rfl
@[simp] theorem lowerRst_acc : (s.lowerRst).acc = s.acc := rfl
@[simp] theorem lowerRst_phase : (s.lowerRst).phase = s.phase := rfl
@[simp] theorem lowerRst_pend : (s.lowerRst).pend = s.pend := rfl
@[simp] theorem lowerRst_rspValid : (s.lowerRst).rspValid = s.rspValid := rfl
@[simp] theorem lowerRst_rspStatus : (s.lowerRst).rspStatus = s.rspStatus := rfl
@[simp] theorem lowerRst_rspData : (s.lowerRst).rspData = s.rspData := rfl
@[simp] theorem lowerRst_rst : (s.lowerRst).rst = false := rfl
@[simp] theorem lowerRst_cmdValid : (s.lowerRst).cmdValid = s.cmdValid := rfl
@[simp] theorem lowerRst_cmdOp : (s.lowerRst).cmdOp = s.cmdOp := rfl
@[simp] theorem lowerRst_cmdArg : (s.lowerRst).cmdArg = s.cmdArg := rfl
@[simp] theorem lowerRst_events : (s.lowerRst).events = s.events := rfl
@[simp] theorem lowerRst_waiting : (s.lowerRst).waiting = s.waiting := rfl
@[simp] theorem lowerRst_edge : (s.lowerRst).edge = s.edge := rfl
@[simp] theorem lowerRst_accessFrom : (s.lowerRst).accessFrom = s.accessFrom := rfl

/-! ### `popEvent` -/

@[simp] theorem popEvent_addr : (s.popEvent).addr = s.addr := rfl
@[simp] theorem popEvent_drive : (s.popEvent).drive = s.drive := rfl
@[simp] theorem popEvent_shadow : (s.popEvent).shadow = s.shadow := rfl
@[simp] theorem popEvent_cs : (s.popEvent).cs = s.cs := rfl
@[simp] theorem popEvent_acc : (s.popEvent).acc = s.acc := rfl
@[simp] theorem popEvent_phase : (s.popEvent).phase = s.phase := rfl
@[simp] theorem popEvent_pend : (s.popEvent).pend = s.pend := rfl
@[simp] theorem popEvent_rspValid : (s.popEvent).rspValid = s.rspValid := rfl
@[simp] theorem popEvent_rspStatus : (s.popEvent).rspStatus = s.rspStatus := rfl
@[simp] theorem popEvent_rspData : (s.popEvent).rspData = s.rspData := rfl
@[simp] theorem popEvent_rst : (s.popEvent).rst = s.rst := rfl
@[simp] theorem popEvent_cmdValid : (s.popEvent).cmdValid = s.cmdValid := rfl
@[simp] theorem popEvent_cmdOp : (s.popEvent).cmdOp = s.cmdOp := rfl
@[simp] theorem popEvent_cmdArg : (s.popEvent).cmdArg = s.cmdArg := rfl
@[simp] theorem popEvent_events : (s.popEvent).events = s.events.tail := rfl
@[simp] theorem popEvent_waiting : (s.popEvent).waiting = s.waiting := rfl
@[simp] theorem popEvent_edge : (s.popEvent).edge = s.edge := rfl
@[simp] theorem popEvent_accessFrom : (s.popEvent).accessFrom = s.accessFrom := rfl

end Sys2Proof.Machine.State
end

