-- ==== Sys2Proof/Laws/Ops.lean ====
section
/-! SUPPORT. One specification lemma per shared operation: what it can answer, so that no later proof unfolds it. -/

namespace Sys2Proof.Machine

variable {s t : State} {o : Host.Outcome State Fault Refusal}

@[simp] theorem mapNext_next (f : State → State) (s : State) : mapNext f (.next s) = .next (f s) := rfl
@[simp] theorem mapNext_fault (f : State → State) (r : Fault) : mapNext f (.fault r) = .fault r := rfl
@[simp] theorem mapNext_refused (f : State → State) (r : Refusal) : mapNext f (.refused r) = .refused r := rfl

theorem mapNext_eq_next {f : State → State} : mapNext f o = .next t ↔ ∃ s, o = .next s ∧ t = f s := by
  cases o <;> simp [eq_comm]

theorem mapNext_eq_fault {f : State → State} {r : Fault} : mapNext f o = .fault r ↔ o = .fault r := by
  cases o <;> simp

@[simp] theorem bindNext_next (s : State) (f : State → Host.Outcome State Fault Refusal) :
    bindNext (.next s) f = f s := rfl
@[simp] theorem bindNext_fault (r : Fault) (f : State → Host.Outcome State Fault Refusal) :
    bindNext (.fault r) f = .fault r := rfl
@[simp] theorem bindNext_refused (r : Refusal) (f : State → Host.Outcome State Fault Refusal) :
    bindNext (.refused r) f = .refused r := rfl

theorem bindNext_eq_next {f : State → Host.Outcome State Fault Refusal} :
    bindNext o f = .next t ↔ ∃ s, o = .next s ∧ f s = .next t := by
  cases o <;> simp

/-- A state that is safe is not in contention, and the other way round. -/
theorem contended_eq_false : s.contended = false ↔ ¬(s.drive = true ∧ s.cs = true) := by
  simp [State.contended]

/-- The two equations of the comparison that decides the direction (41 R120). -/
theorem driveOf_eq (a : Word16) : driveOf a = decide (a.toNat < Config.romBoundary) := by
  unfold driveOf modeOf
  by_cases h : Config.romBoundary ≤ a.toNat <;> simp [h]
  omega

theorem modeOf_eq_input {a : Word16} : modeOf a = .input ↔ Config.romBoundary ≤ a.toNat := by
  unfold modeOf
  split <;> simp [*]

theorem modeOf_eq_output {a : Word16} : modeOf a = .output ↔ a.toNat < Config.romBoundary := by
  unfold modeOf
  split <;> simp <;> omega

/-- A raised `rst` and an event over do not change the pins' dependence on the registers. -/
@[simp] theorem endEdge_cartPins (s : State) (b : Bool) : (s.endEdge b).cartPins = s.cartPins := rfl
@[simp] theorem respond_cartPins (s : State) (st : BitVec 2) (d : Word16) :
    (s.respond st d).cartPins = s.cartPins := rfl
@[simp] theorem popEvent_cartPins (s : State) : s.popEvent.cartPins = s.cartPins := rfl
@[simp] theorem lowerRst_cartPins (s : State) : s.lowerRst.cartPins = s.cartPins := rfl
@[simp] theorem noResponse_cartPins (s : State) : s.noResponse.cartPins = s.cartPins := rfl

/-- What an accepted word can do: R171 for an illegal one, its command for a legal one. -/
theorem acceptWord_cases {cw : CommandWord} (h : acceptWord cw s = .next t) :
    (∃ c, decode cw = .illegal c ∧ t = s.illegalCommand) ∨ ∃ i, decode cw = .command i ∧ exec i s = .next t := by
  unfold acceptWord at h
  split at h
  · exact .inr ⟨_, by assumption, h⟩
  · injection h with h
    exact .inl ⟨_, by assumption, h.symm⟩

/-- What a rising edge can do (30 R71 to R74, 41 R131, 60 R184). -/
theorem clockEdge_cases (h : clockEdge s = .next t) :
    (s.rst = true ∧ t = s.resetRegisters.endEdge false) ∨
    (s.rst = false ∧ s.phase = .saB ∧ t = s.phaseB.endEdge false) ∨
    (s.rst = false ∧ s.phase = .idle ∧ s.cmdValid = false ∧ t = s.noResponse.endEdge false) ∨
    (s.rst = false ∧ s.phase = .idle ∧ s.cmdValid = true ∧
      ∃ u, acceptWord s.portWord s = .next u ∧ t = u.endEdge true) := by
  unfold clockEdge at h
  split at h
  · rename_i hr
    injection h with h
    exact .inl ⟨hr, h.symm⟩
  · rename_i hr
    have hr : s.rst = false := by simpa using hr
    split at h
    · rename_i hp
      injection h with h
      exact .inr (.inl ⟨hr, hp, h.symm⟩)
    · rename_i hp
      split at h
      · rename_i hv
        obtain ⟨u, hu, rfl⟩ := mapNext_eq_next.mp h
        exact .inr (.inr (.inr ⟨hr, hp, hv, u, hu, rfl⟩))
      · rename_i hv
        injection h with h
        exact .inr (.inr (.inl ⟨hr, hp, by simpa using hv, h.symm⟩))

/-- What presenting a word can do: it stands on the port and waits. -/
theorem presentAt_cases {op : BitVec 4} {arg : Word16} (h : presentAt op arg s = .next t) :
    (s.mustHold = true → s.cmdOp = op ∧ s.cmdArg = arg) ∧
      t = { s with cmdValid := true, cmdOp := op, cmdArg := arg, waiting := true } := by
  unfold presentAt at h
  split at h
  · simp at h
  · rename_i hn
    injection h with h
    exact ⟨fun hm => by simpa [hm] using hn, h.symm⟩

/-- What withdrawing can do: nothing is presented after it. -/
theorem withdrawAt_cases (h : withdrawAt s = .next t) :
    s.mustHold = false ∧ t = { s with cmdValid := false, waiting := false } := by
  unfold withdrawAt at h
  split at h
  · simp at h
  · rename_i hn
    injection h with h
    exact ⟨by simpa using hn, h.symm⟩

/-- What one event can do, whichever it is. -/
theorem handleEvent_cases {e : PortEvent} (h : handleEvent e s = .next t) :
    (e = .clkRise ∧ clockEdge s = .next t) ∨ (e = .rstRise ∧ t = s.raiseRst) ∨ (e = .rstFall ∧ t = s.lowerRst) ∨
    (∃ op arg, e = .present op arg ∧ presentAt op arg s = .next t) ∨ (e = .withdraw ∧ withdrawAt s = .next t) := by
  cases e with
  | clkRise => exact .inl ⟨rfl, h⟩
  | rstRise => injection h with h; exact .inr (.inl ⟨rfl, h.symm⟩)
  | rstFall => injection h with h; exact .inr (.inr (.inl ⟨rfl, h.symm⟩))
  | present op arg => exact .inr (.inr (.inr (.inl ⟨op, arg, rfl, h⟩)))
  | withdraw => exact .inr (.inr (.inr (.inr ⟨rfl, h⟩)))

/-- An event that goes on met no contention. -/
theorem guardedEvent_eq_next {e : PortEvent} :
    guardedEvent e s = .next t ↔ s.contended = false ∧ handleEvent e s = .next t := by
  unfold guardedEvent
  split <;> simp_all

/-- The same, for a state known to be out of contention. -/
theorem guardedEvent_of_not_contended {e : PortEvent} (h : s.contended = false) :
    guardedEvent e s = handleEvent e s := by
  simp [guardedEvent, h]

end Sys2Proof.Machine
end

