-- ==== Sys2Proof/Laws/Step.lean ====
section
/-! SUPPORT. What one step can do, said once: every claim about a step starts from `step_cases`. -/

namespace Sys2Proof.Machine

variable {s t : State}

/-- A step that goes on handled the next event in a state out of contention, and the event is over. -/
theorem step_cases (h : step s = .next t) :
    s.contended = false ∧ ∃ u, handleEvent s.nextEvent s = .next u ∧ t = u.popEvent := by
  obtain ⟨u, hu, rfl⟩ := mapNext_eq_next.mp h
  obtain ⟨hc, he⟩ := guardedEvent_eq_next.mp hu
  exact ⟨hc, u, he, rfl⟩

/-- A step in a state out of contention is its event. -/
theorem step_of_not_contended (h : s.contended = false) :
    step s = mapNext State.popEvent (handleEvent s.nextEvent s) := by
  rw [step, guardedEvent_of_not_contended h]

end Sys2Proof.Machine
end

