-- ==== Sys2Proof/Laws/Command.lean ====
section
/-! SUPPORT. What a whole command does from a ready state, said once: `runEvents_commandEvents`. -/

namespace Sys2Proof.Machine

variable {s t : State}

/-- Every accepted word goes on: no command and no illegal word stops (60_exceptions.md R170). -/
theorem acceptWord_next (cw : CommandWord) (s : State) : ∃ t, acceptWord cw s = .next t := by
  unfold acceptWord
  split
  · rename_i i _
    cases i <;> exact ⟨_, rfl⟩
  · exact ⟨_, rfl⟩

/-- An accepted word keeps the safety invariant at its own edge. -/
theorem acceptWord_safe {cw : CommandWord} (hs : s.Safe) (h : acceptWord cw s = .next t) : t.Safe := by
  unfold State.Safe at *
  obtain ⟨_, _, rfl⟩ | ⟨i, _, hi⟩ := acceptWord_cases h
  · simp_all
  · cases i <;> (injection hi with hi; subst hi; simp_all)

theorem State.Safe.not_contended (h : s.Safe) : s.contended = false := contended_eq_false.mpr h

/-- Events in two parts. -/
theorem runEvents_append (a b : List PortEvent) (s : State) :
    runEvents (a ++ b) s = bindNext (runEvents a s) (runEvents b) := by
  induction a generalizing s with
  | nil => rfl
  | cons e a ih =>
    simp only [List.cons_append, runEvents]
    cases guardedEvent e s <;> simp [ih]

/-- The port with the word presented. -/
def presentedWord (cw : CommandWord) (s : State) : State :=
  { s with cmdValid := true, cmdOp := opField cw, cmdArg := argField cw, waiting := true }

/-- The port with nothing presented. -/
def withdrawnWord (s : State) : State := { s with cmdValid := false, waiting := false }

theorem runEvents_present (cw : CommandWord) (es : List PortEvent) (hr : s.Ready) (hs : s.Safe) :
    runEvents (.present (opField cw) (argField cw) :: es) s = runEvents es (presentedWord cw s) := by
  simp [runEvents, guardedEvent_of_not_contended hs.not_contended, handleEvent, presentAt, hr.2.2]
  rfl

theorem runEvents_clkRise (es : List PortEvent) (hs : s.Safe) (h : clockEdge s = .next t) :
    runEvents (.clkRise :: es) s = runEvents es t := by
  simp [runEvents, guardedEvent_of_not_contended hs.not_contended, handleEvent, h]

theorem runEvents_withdraw (es : List PortEvent) (hs : s.Safe) (h : s.waiting = false) :
    runEvents (.withdraw :: es) s = runEvents es (withdrawnWord s) := by
  simp [runEvents, guardedEvent_of_not_contended hs.not_contended, handleEvent, withdrawAt, State.mustHold, h]
  rfl

/-- The edge that accepts a presented word (30_encoding.md R72). -/
theorem clockEdge_presentedWord (cw : CommandWord) (hr : s.Ready) :
    clockEdge (presentedWord cw s) = mapNext (State.endEdge · true) (acceptWord cw (presentedWord cw s)) := by
  have hrst : (presentedWord cw s).rst = false := hr.1
  have hphase : (presentedWord cw s).phase = .idle := hr.2.1
  have hword : (presentedWord cw s).portWord = cw := commandWord_fields cw
  rw [clockEdge, hrst, hphase, hword]
  rfl

/-- What a whole command leaves: both phases of SET_ADDRESS, the one edge of any other word. -/
def commandResult (cw : CommandWord) (s : State) : State :=
  match decode cw with
  | .command (.setAddress a) =>
    (withdrawnWord (((presentedWord cw s).startSetAddress a).noResponse.endEdge true)).phaseB.endEdge false
  | _ =>
    match acceptWord cw (presentedWord cw s) with
    | .next t => withdrawnWord (t.endEdge true)
    | _ => s

/-- A whole command, whatever follows it (41_cartridge_bus.md R132, R163). -/
theorem runEvents_commandEvents (cw : CommandWord) (es : List PortEvent) (hr : s.Ready) (hs : s.Safe) :
    runEvents (commandEvents cw ++ es) s = runEvents es (commandResult cw s) := by
  obtain ⟨t, ht⟩ := acceptWord_next cw (presentedWord cw s)
  have hedge := clockEdge_presentedWord cw hr
  unfold commandResult
  split
  · rename_i a hd
    have ha : acceptWord cw (presentedWord cw s) = .next ((presentedWord cw s).startSetAddress a).noResponse := by
      rw [acceptWord, hd]
      rfl
    rw [ha] at hedge
    rw [commandEvents, edgesOf, hd]
    simp only [List.cons_append, List.nil_append, edgeEvents, List.replicate]
    rw [runEvents_present cw _ hr hs, runEvents_clkRise _ (by exact hs) hedge, runEvents_withdraw _ (by simp [State.Safe])
      (by simp), runEvents_clkRise _ (by simp [State.Safe, withdrawnWord])]
    simp [clockEdge, withdrawnWord, presentedWord, hr.1]
  · have hone : edgesOf cw = 1 := by
      unfold edgesOf
      split <;> simp_all
    rw [ht] at hedge ⊢
    rw [commandEvents, hone]
    simp only [List.cons_append, List.nil_append, edgeEvents, Nat.sub_self, List.replicate]
    have hsafe : t.Safe := acceptWord_safe (s := presentedWord cw s) hs ht
    rw [runEvents_present cw _ hr hs, runEvents_clkRise _ (by exact hs) hedge, runEvents_withdraw _ (by exact hsafe)
      (by simp)]

/-- The same, at the end. -/
theorem runCommand_eq (cw : CommandWord) (hr : s.Ready) (hs : s.Safe) :
    runCommand cw s = .next (commandResult cw s) := by
  simpa [runCommand, runEvents] using runEvents_commandEvents cw [] hr hs

/-- After a whole command the block is ready for the next, and safe. -/
theorem commandResult_ready (cw : CommandWord) (hr : s.Ready) (hs : s.Safe) :
    (commandResult cw s).Ready ∧ (commandResult cw s).Safe := by
  obtain ⟨t, ht⟩ := acceptWord_next cw (presentedWord cw s)
  unfold commandResult
  split
  · exact ⟨⟨hr.1, rfl, by simp [State.mustHold, withdrawnWord]⟩, by simp [State.Safe, withdrawnWord]⟩
  · rw [ht]
    have hsafe : t.Safe := acceptWord_safe (s := presentedWord cw s) hs ht
    change (withdrawnWord (t.endEdge true)).Ready ∧ (withdrawnWord (t.endEdge true)).Safe
    refine ⟨?_, hsafe⟩
    refine ⟨?_, ?_, by simp [State.mustHold, withdrawnWord]⟩
    · obtain ⟨_, _, rfl⟩ | ⟨i, _, hi⟩ := acceptWord_cases ht
      · exact hr.1
      · cases i <;> (injection hi with hi; subst hi; exact hr.1)
    · obtain ⟨_, _, rfl⟩ | ⟨i, hd, hi⟩ := acceptWord_cases ht
      · exact hr.2.1
      · cases i <;> first | (simp_all; done) | (injection hi with hi; subst hi; exact hr.2.1)

end Sys2Proof.Machine
end

