-- ==== Sys2Proof/Laws/HostProgram.lean ====
section
/-! SUPPORT. What the host's lines and programs can do, said once: idle cycles, one line, and what every line keeps a
whole program keeps (`HostProg.run_keeps`). -/

namespace Sys2Proof.Machine

variable {s t : State} {r r' : HostRun}

/-- After some idle edges: nothing presented, the response over, the edges counted. -/
def idledState (n : Nat) (s : State) : State :=
  { s with cmdValid := false, waiting := false, rspValid := false, edge := s.edge + n }

theorem idledState_ready (n : Nat) (hr : s.Ready) : (idledState n s).Ready := ⟨hr.1, hr.2.1, rfl⟩

theorem idledState_safe (n : Nat) (hs : s.Safe) : (idledState n s).Safe := hs

theorem idledState_idledState (m n : Nat) (s : State) : idledState m (idledState n s) = idledState (n + m) s := by
  simp [idledState, Nat.add_assoc]

/-- An edge with nothing presented (60_exceptions.md R184). -/
theorem clockEdge_idle (hr : s.Ready) (hv : s.cmdValid = false) : clockEdge s = .next (idledState 1 s) := by
  simp only [clockEdge, hr.1, hr.2.1, hv]
  simp [State.endEdge, State.noResponse, idledState, hv]

/-- Edges with nothing presented, whatever follows them. -/
theorem runEvents_edgeEvents (n : Nat) (es : List PortEvent) (hr : s.Ready) (hs : s.Safe) (hv : s.cmdValid = false) :
    runEvents (edgeEvents (n + 1) ++ es) s = runEvents es (idledState (n + 1) s) := by
  induction n generalizing s with
  | zero => exact runEvents_clkRise es hs (clockEdge_idle hr hv)
  | succ n ih =>
    change runEvents (.clkRise :: (edgeEvents (n + 1) ++ es)) s = _
    rw [runEvents_clkRise _ hs (clockEdge_idle hr hv), ih (idledState_ready 1 hr) (idledState_safe 1 hs) rfl,
      idledState_idledState, Nat.add_comm 1]

/-- What `IDLE n` leaves (30_encoding.md R89): nothing changed for `n = 0`, which is empty (R92). -/
def idleResult : Nat → State → State
  | 0, s => s
  | n + 1, s => idledState (n + 1) s

/-- `IDLE n`, whatever follows it and whatever stood on the port. -/
theorem runEvents_idleEvents (n : Nat) (es : List PortEvent) (hr : s.Ready) (hs : s.Safe) :
    runEvents (idleEvents n ++ es) s = runEvents es (idleResult n s) := by
  cases n with
  | zero => rfl
  | succ n =>
    have hw : handleEvent .withdraw s = .next (withdrawnWord s) := by
      simp [handleEvent, withdrawAt, hr.2.2, withdrawnWord]
    have hr' : (withdrawnWord s).Ready := ⟨hr.1, hr.2.1, rfl⟩
    change runEvents (.withdraw :: (edgeEvents (n + 1) ++ es)) s = _
    rw [runEvents, guardedEvent_of_not_contended hs.not_contended, hw, bindNext_next,
      runEvents_edgeEvents n es hr' (by exact hs) rfl]
    rfl

theorem idleResult_ready (n : Nat) (hr : s.Ready) (hs : s.Safe) : (idleResult n s).Ready ∧ (idleResult n s).Safe := by
  cases n with
  | zero => exact ⟨hr, hs⟩
  | succ n => exact ⟨idledState_ready _ hr, idledState_safe _ hs⟩

/-- A line that presents a word, from a state ready for it. -/
theorem HostRun.line_word (cw : CommandWord) (hr : r.state.Ready) (hs : r.state.Safe) :
    r.line (.word cw) = .ok { r with
      state := commandResult cw r.state
      responses := r.responses ++ [⟨(commandResult cw r.state).rspStatus, (commandResult cw r.state).rspData⟩]
      answered := some (commandResult cw r.state) } := by
  have h : runEvents (commandEvents cw) r.state = .next (commandResult cw r.state) := runCommand_eq cw hr hs
  simp [HostRun.line, lineEvents, h]

/-- An idle line, from a state ready for a command. -/
theorem HostRun.line_idle (n : Nat) (hr : r.state.Ready) (hs : r.state.Safe) :
    r.line (.idle n) = .ok { r with state := idleResult n r.state } := by
  have h := runEvents_idleEvents n [] hr hs
  rw [List.append_nil] at h
  simp [HostRun.line, lineEvents, h, runEvents]

/-- Lines in two parts. -/
theorem HostRun.lines_append (a b : List HostLine) (r : HostRun) :
    HostRun.lines (a ++ b) r =
      match HostRun.lines a r with
      | .ok r' => HostRun.lines b r'
      | .error e => .error e := by
  induction a generalizing r with
  | nil => rfl
  | cons l a ih =>
    simp only [List.cons_append, HostRun.lines]
    cases r.line l <;> simp [ih]

/-- What every line keeps, lines keep. -/
theorem HostRun.lines_keeps {P : HostRun → Prop} (hline : ∀ l r r', P r → r.line l = .ok r' → P r')
    (ls : List HostLine) (hP : P r) (h : HostRun.lines ls r = .ok r') : P r' := by
  induction ls generalizing r with
  | nil =>
    injection h with h
    exact h ▸ hP
  | cons l ls ih =>
    unfold HostRun.lines at h
    split at h
    · rename_i r₁ h₁
      exact ih (hline l r r₁ hP h₁) h
    · cases h

/-- What every pass keeps, the passes keep. -/
theorem forPasses_keeps {P : HostRun → Prop} {f : Nat → HostRun → Except HostStop HostRun}
    (hf : ∀ i r r', P r → f i r = .ok r' → P r') (n : Nat) (hP : P r) (h : forPasses f n r = .ok r') : P r' := by
  induction n generalizing r' with
  | zero =>
    injection h with h
    exact h ▸ hP
  | succ n ih =>
    unfold forPasses at h
    split at h
    · rename_i r₁ h₁
      exact hf n r₁ r' (ih h₁) h
    · cases h

/-- A command line is the line of its assembled word. -/
theorem HostRun.commandLine_cases {m : Mnemonic} {imm : Option Nat} (h : r.commandLine m imm = .ok r') :
    ∃ cw, r.line (.word cw) = .ok r' := by
  unfold HostRun.commandLine at h
  split at h
  · exact ⟨_, h⟩
  · cases h

/-- What every line and every naming keeps, a host program keeps. -/
theorem HostProg.run_keeps {P : HostRun → Prop} (hline : ∀ l r r', P r → r.line l = .ok r' → P r')
    (hname : ∀ (r : HostRun) values, P r → P { r with values := values }) (p : HostProg) (hP : P r)
    (h : p.run r = .ok r') : P r' := by
  induction p generalizing r r' with
  | skip =>
    injection h with h
    exact h ▸ hP
  | command m imm =>
    cases imm with
    | none =>
      obtain ⟨cw, h⟩ := HostRun.commandLine_cases h
      exact hline _ _ _ hP h
    | some e =>
      unfold HostProg.run at h
      split at h
      · obtain ⟨cw, h⟩ := HostRun.commandLine_cases h
        exact hline _ _ _ hP h
      · cases h
  | lines ls => exact HostRun.lines_keeps hline ls hP h
  | idle e =>
    unfold HostProg.run at h
    split at h
    · exact hline _ _ _ hP h
    · cases h
  | nameRsp x =>
    unfold HostProg.run HostRun.nameRsp at h
    split at h
    · injection h with h
      exact h ▸ hname _ _ hP
    · cases h
  | seq p q ihp ihq =>
    unfold HostProg.run at h
    split at h
    · rename_i r₁ h₁
      exact ihq (ihp hP h₁) h
    · cases h
  | loop n x body ih => exact forPasses_keeps (fun i r₁ r₂ h₁ h₂ => ih (hname _ _ h₁) h₂) n hP h
  | cond c body ih =>
    unfold HostProg.run at h
    split at h
    · exact ih hP h
    · injection h with h
      exact h ▸ hP
    · cases h

/-- A host program leaves the block ready for the next command. -/
theorem HostProg.run_ready (p : HostProg) (hr : r.state.Ready) (hs : r.state.Safe) (h : p.run r = .ok r') :
    r'.state.Ready ∧ r'.state.Safe := by
  refine p.run_keeps (P := fun r => r.state.Ready ∧ r.state.Safe) (fun l r r' hP h => ?_) (fun _ _ hP => hP) ⟨hr, hs⟩ h
  cases l with
  | word cw =>
    rw [HostRun.line_word cw hP.1 hP.2] at h
    injection h with h
    exact h ▸ commandResult_ready cw hP.1 hP.2
  | idle n =>
    rw [HostRun.line_idle n hP.1 hP.2] at h
    injection h with h
    exact h ▸ idleResult_ready n hP.1 hP.2

end Sys2Proof.Machine
end

