-- ==== Sys2Proof/Tests/Slice0.lean ====
section
/-! SUPPORT. The model's own tests. Expected values come from the vectors of spec/95_test_vectors.md (L2.*) and the
rules named; `test_witness_*` theorems show concrete states that meet the hypotheses of the obligation they name. -/

namespace Sys2Proof.Tests

open Sys2Proof.Machine

/-- A state `FSM/ADDR/SHADOW/ACC` as 95_test_vectors.md writes it. -/
def at_ (drive cs : Bool) (addr : Location) (shadow : Byte) (acc : Word16) : State :=
  { State.reset with drive := drive, cs := cs, addr := addr, shadow := shadow, acc := acc }

/-- The state with this word presented, waiting for the next edge. -/
def presenting (w : CommandWord) (s : State) : State := s.withFetchWord 20 w.toNat

/-- A field of the next state. -/
def after {α : Type} (f : State → α) (o : Host.Outcome State Fault Refusal) : Option α := (nextState? o).map f

/-- FSM state, `ADDR`, `SHADOW` and `ACC` together. -/
def summary (s : State) : FsmState × Location × Byte × Word16 := (s.fsm, s.addr, s.shadow, s.acc)

/-! ### Decoding: words written out from 30_encoding.md R76, R80 -/

/-- 0001 | 0001 1010 1011 1100. -/
theorem test_decode_setAddress : decode 0b00010001101010111100#20 = .command (.setAddress 0x1ABC#16) := by decide
/-- 0010 | 0000 0000 | 0100 0010. -/
theorem test_decode_setData : decode 0b00100000000001000010#20 = .command (.setData 0x42#8) := by decide
/-- 0011 and sixteen zeros. -/
theorem test_decode_getData : decode 0b00110000000000000000#20 = .command .getData := by decide
/-- 0100 and sixteen zeros. -/
theorem test_decode_enableCs : decode 0b01000000000000000000#20 = .command .enableCs := by decide
/-- 0101 and sixteen zeros. -/
theorem test_decode_disableCs : decode 0b01010000000000000000#20 = .command .disableCs := by decide
/-- 1000 and sixteen zeros. -/
theorem test_decode_csumClear : decode 0b10000000000000000000#20 = .command .csumClear := by decide
/-- 1001 | 0000 0000 | 1011 1100. -/
theorem test_decode_csumAdd : decode 0b10010000000010111100#20 = .command (.csumAdd 0xBC#8) := by decide
/-- 1010 and sixteen zeros. -/
theorem test_decode_csumRead : decode 0b10100000000000000000#20 = .command .csumRead := by decide
/-- L2.C10, L2.C11, L2.C12, L2.B16: reserved bits. -/
theorem test_decode_reserved :
    decode 0x90100#20 = .illegal .reservedBits ∧ decode 0x80001#20 = .illegal .reservedBits ∧
      decode 0xA8000#20 = .illegal .reservedBits ∧ decode 0x30001#20 = .illegal .reservedBits := by decide
/-- L2.B26, L2.B27, L2.B29: unassigned ops. -/
theorem test_decode_unassigned :
    decode 0x00000#20 = .illegal .unassignedOp ∧ decode 0x61234#20 = .illegal .unassignedOp ∧
      decode 0xF1234#20 = .illegal .unassignedOp := by decide
/-- The words of R88 for each mnemonic. -/
theorem test_encode :
    encode (.setAddress 0x1ABC#16) = 0x11ABC#20 ∧ encode (.setData 0x42#8) = 0x20042#20 ∧
      encode (.csumAdd 0x1A#8) = 0x9001A#20 ∧ encode .csumRead = 0xA0000#20 := by decide
/-- 20 bits in three bytes; a number with a bit above them is no command word. -/
theorem test_decodeTableWord :
    decodeTableWord 24 0x40000 = some .enableCs ∧ decodeTableWord 24 0x140000 = none ∧
      decodeTableWord 24 0x40010 = none := by decide

/-! ### WellFormed: an ill-formed term for each check (R82, R83) -/

theorem test_wellFormed_op_refused :
    opAssigned 0x0#4 = false ∧ opAssigned 0x6#4 = false ∧ opAssigned 0x7#4 = false ∧ opAssigned 0xB#4 = false ∧
      opAssigned 0xF#4 = false := by decide
theorem test_wellFormed_reserved_refused :
    reservedZero 0x2#4 0x0142#16 = false ∧ reservedZero 0x3#4 0x0001#16 = false ∧
      reservedZero 0x4#4 0x0010#16 = false ∧ reservedZero 0x9#4 0x8000#16 = false ∧
      reservedZero 0xA#4 0x8000#16 = false := by decide
theorem test_wellFormed_accepted :
    wellFormedFields 0x1#4 0xFFFF#16 = true ∧ wellFormedFields 0x2#4 0x00FF#16 = true ∧
      wellFormedFields 0x8#4 0x0000#16 = true ∧ wellFormedFields 0x6#4 0x0000#16 = false := by decide

/-! ### One command each (95_test_vectors.md L2) -/

/-- L2.B8 at its two edges: the intermediate cycle deselects with the old address and direction (R130); phase B
selects output mode and the new address (R131). -/
theorem test_setAddress_phases :
    after summary (exec (.setAddress 0x0123#16) (at_ false true 0xABC#12 0x5A#8 0)) =
        some (.inIdle, 0xABC#12, 0x5A#8, 0x0000#16) ∧
      after summary (runCommand 0x10123#20 (at_ false true 0xABC#12 0x5A#8 0)) =
        some (.out, 0x123#12, 0x5A#8, 0x0000#16) := by decide
/-- L2.B2, L2.B3, L2.B5: the boundary and bits 15..12. -/
theorem test_setAddress_boundary :
    after summary (runCommand 0x10FFF#20 (at_ false false 0x000#12 0 0)) = some (.out, 0xFFF#12, 0, 0) ∧
      after summary (runCommand 0x11000#20 (at_ true false 0xFFF#12 0 0)) = some (.inIdle, 0x000#12, 0, 0) ∧
      after summary (runCommand 0x12000#20 (at_ true false 0x123#12 0 0)) = some (.inIdle, 0x000#12, 0, 0) := by decide
/-- L2.B10: the byte is driven. -/
theorem test_setData_output :
    after State.cartPins (exec (.setData 0x42#8) (at_ true false 0x080#12 0 0)) =
      some { a := 0x080#12, dOut := 0x42#8, dOe := true, dPull := 0x00#8, cs := false } := by decide
/-- L2.B11: in input mode the byte sets the pull-ups. -/
theorem test_setData_input :
    after State.cartPins (exec (.setData 0xA5#8) (at_ false false 0x000#12 0 0)) =
      some { a := 0x000#12, dOut := 0xA5#8, dOe := false, dPull := 0xA5#8, cs := false } := by decide
/-- L2.B13: in output mode `SHADOW` is answered. -/
theorem test_getData_output :
    after State.response (exec .getData (at_ true false 0x080#12 0x42#8 0)) =
      some (some ⟨0b00#2, 0x0042#16⟩) := by decide
/-- L2.B14, L2.B15: in input mode the byte is a draw; the status is OK and no register changes. -/
theorem test_getData_input :
    after (fun s => (s.rspStatus, summary s)) (exec .getData (at_ false true 0xABC#12 0 0)) =
      some (0b00#2, .inSel, 0xABC#12, 0, 0) := by decide
/-- L2.B17, L2.B18. -/
theorem test_enableCs_input :
    after summary (exec .enableCs (at_ false false 0xABC#12 0 0)) = some (.inSel, 0xABC#12, 0, 0) ∧
      after State.response (exec .enableCs (at_ false true 0xABC#12 0 0)) = some (some ⟨0b00#2, 0⟩) := by decide
/-- L2.B20: refused in output mode. -/
theorem test_enableCs_output :
    after (fun s => (s.response, s.fsm)) (exec .enableCs (at_ true false 0x080#12 0x42#8 0)) =
      some (some ⟨0b01#2, 0x0000#16⟩, .out) := by decide
/-- L2.B22, L2.B24. -/
theorem test_disableCs :
    after summary (exec .disableCs (at_ false true 0xABC#12 0 0)) = some (.inIdle, 0xABC#12, 0, 0) ∧
      after summary (exec .disableCs (at_ true false 0x080#12 0x42#8 0)) = some (.out, 0x080#12, 0x42#8, 0) := by decide
/-- L2.C8. -/
theorem test_csumClear : after State.acc (exec .csumClear (at_ false false 0 0 0x1234#16)) = some 0x0000#16 := by decide
/-- L2.C5, L2.C7: the carry is discarded. -/
theorem test_csumAdd_wraps :
    after State.acc (exec (.csumAdd 0x01#8) (at_ false false 0 0 0xFFFF#16)) = some 0x0000#16 ∧
      after State.acc (exec (.csumAdd 0xFF#8) (at_ false false 0 0 0xFF80#16)) = some 0x007F#16 := by decide
/-- L2.C4. -/
theorem test_csumAdd : after State.acc (exec (.csumAdd 0x01#8) (at_ false false 0 0 0x00FF#16)) = some 0x0100#16 := by
  decide
/-- L2.C9: read and unchanged. -/
theorem test_csumRead :
    after (fun s => (s.response, s.acc)) (exec .csumRead (at_ false false 0 0 0xBEEF#16)) =
      some (some ⟨0b00#2, 0xBEEF#16⟩, 0xBEEF#16) := by decide

/-! ### Steps -/

/-- L2.B25: an illegal word changes nothing but the response. -/
theorem test_step_illegal :
    after (fun s => (s.response, summary s)) (step (presenting 0x50001#20 (at_ false true 0xABC#12 0 0))) =
      some (some ⟨0b10#2, 0x0000#16⟩, .inSel, 0xABC#12, 0, 0) := by decide
/-- L2.R3: the first edge after reset accepts a command. -/
theorem test_step_first_command :
    after (fun s => (s.response, summary s)) (step (presenting 0x40000#20 State.reset)) =
      some (some ⟨0b00#2, 0x0000#16⟩, .inSel, 0x000#12, 0, 0) := by decide
/-- L2.T1, edge k+1: phase B, with ENABLE_CS presented and held. -/
theorem test_step_phaseB :
    after (fun s => (s.cmdReady, s.cartPins, s.response, s.waiting))
        (step { at_ false false 0xABC#12 0x5A#8 0 with
          phase := .saB, pend := 0x0123#16, cmdValid := true, cmdOp := 0x4#4, waiting := true }) =
      some (true, { a := 0x123#12, dOut := 0x5A#8, dOe := true, dPull := 0x00#8, cs := false },
        some ⟨0b00#2, 0x0000#16⟩, true) := by decide
/-- L2.R2: reset between the phases abandons the command. -/
theorem test_step_reset_in_setAddress :
    after (fun s => (summary s, s.response, s.cmdReady))
        (step { at_ false false 0xABC#12 0x5A#8 0x1234#16 with
          phase := .saB, pend := 0x0123#16, events := [.rstRise] }) =
      some ((.inIdle, 0x000#12, 0x00#8, 0x0000#16), none, false) := by decide
/-- 30 R74, 60 R184: the response lasts one cycle. -/
theorem test_step_idle :
    after (fun s => (s.response, s.rspData)) (step { State.reset with rspValid := true, rspData := 0xBEEF#16 }) =
      some (none, 0xBEEF#16) := by decide
/-- 60 R174: contention is a fault. -/
theorem test_step_contention : step (at_ true true 0 0 0) = .fault .contention := rfl
/-- 70 R206: a waiting command may not be withdrawn. -/
theorem test_step_withdraw_refused :
    step { State.reset with cmdValid := true, waiting := true, events := [.withdraw] } = .refused .hostChangedCommand :=
  rfl

/-! ### The host's side -/

/-- 95 section 2: `checksum(0x72, 0x00, 0xBC, 0x1A)` = 0x0148, and a reordering. -/
theorem test_checksum : checksum [0x72#8, 0x00#8, 0xBC#8, 0x1A#8] = 0x0148#16 ∧
    checksum [0x03#8, 0x02#8, 0x01#8] = 0x0006#16 := by decide
/-- P3: the frame checksum of the request header, in both byte orders. -/
theorem test_frameChecksum :
    frameChecksum .little ⟨0x72#8, 0x00#8, 0x0000#16, 0x0001#16, 0x1ABC#16⟩ [] = 0x0149#16 ∧
      headerBytes .big ⟨0x72#8, 0x00#8, 0x0000#16, 0x0001#16, 0x1ABC#16⟩ =
        [0x72#8, 0x00#8, 0x00#8, 0x00#8, 0x00#8, 0x01#8, 0x1A#8, 0xBC#8] := by decide
/-- R88: `SET_ADDRESS 0x1ABC ; x`, `CSUM_ADD 'r'`, and an operand that does not fit. -/
theorem test_assembleLine :
    assembleLine ['S', 'E', 'T', '_', 'A', 'D', 'D', 'R', 'E', 'S', 'S', ' ', '0', 'x', '1', 'A', 'B', 'C', ' ', ';', 'x'] =
        .word 0x11ABC#20 ∧
      assembleLine ['C', 'S', 'U', 'M', '_', 'A', 'D', 'D', ' ', Char.ofNat 39, 'r', Char.ofNat 39] = .word 0x90072#20 ∧
      assembleLine ['S', 'E', 'T', '_', 'D', 'A', 'T', 'A', ' ', '2', '5', '6'] = .refused := by decide
/-- R89: the host names a response and adds it: 5, then the 5 read back. -/
theorem test_hostProg :
    ((HostProg.seq (.command .csumAdd (some (.const 5)))
        (.seq (.command .csumRead none) (.seq (.nameRsp 0) (.command .csumAdd (some (.named 0)))))).run
          (HostRun.start State.reset)).toOption.map (fun r => (r.state.acc, r.responses.length)) = some (10#16, 3) := by decide

/-- R89: `IDLE 1` presents nothing, though a `CSUM_ADD 1` still stands on the port from its accepting edge. -/
theorem test_idle_withdraws :
    after (fun s => (s.acc, s.cmdValid, s.edge))
        (runEvents (lineEvents (.idle 1)) { State.reset with cmdValid := true, cmdOp := 0x9#4, cmdArg := 0x0001#16 }) =
      some (0x0000#16, false, 1) := by decide
/-- `CSUM_ADD 5 ; CSUM_READ ; IDLE 3`. -/
def addReadIdle : HostProg :=
  .seq (.command .csumAdd (some (.const 5))) (.seq (.command .csumRead none) (.idle (.const 3)))
/-- 70 R217, 70 R210: the run ends in the cycle of the last response, 2 edges in, and not after the idle cycles. -/
theorem test_endOfRun :
    (addReadIdle.endOfRun State.reset).toOption.map (fun e =>
        (e.state.map (fun t => (t.response, t.edge)), e.responses)) =
      some (some (some ⟨0b00#2, 0x0005#16⟩, 2), [⟨0b00#2, 0x0000#16⟩, ⟨0b00#2, 0x0005#16⟩]) := by decide

/-! ### Witnesses of hypotheses -/

theorem test_witness_OpcodeMapSelectsTheDecodedRow : opcodeRows[(7 : Fin 8).val]? = some ⟨"CSUM_READ", 0xA0000#20, 0xFFFFF#20⟩ := by
  decide
/-- `AssembledWordIsOpcodeAndImmediate`, each width at its edge. -/
theorem test_witness_AssembledWord :
    assembleWord .setAddress (some 65535) = some 0x1FFFF#20 ∧ assembleWord .setAddress (some 65536) = none ∧
      assembleWord .setData (some 255) = some 0x200FF#20 ∧ assembleWord .setData (some 256) = none ∧
      assembleWord .csumAdd (some 255) = some 0x900FF#20 ∧ assembleWord .csumAdd (some 256) = none := by decide
theorem test_witness_RisingRstResetsAtOnce :
    let s := { at_ false true 0xABC#12 0x5A#8 0x1234#16 with events := [.rstRise] }
    s.contended = false ∧ s.nextEvent = .rstRise := by decide
theorem test_witness_FallingRstKeepsTheRegisters :
    let s := { State.reset with rst := true, events := [.rstFall] }
    s.contended = false ∧ s.nextEvent = .rstFall := by decide
/-- From a state not under reset, by a rising `rst`, and from one under reset, by an edge. -/
theorem test_witness_RegistersHoldResetValuesWhileRst :
    (∃ t, step { at_ false true 0xABC#12 0x5A#8 0x1234#16 with events := [.rstRise] } = .next t ∧ t.rst = true) ∧
      (({ State.reset with rst := true } : State).rst = true → ({ State.reset with rst := true } : State).AtReset) ∧
      ∃ t, step { State.reset with rst := true } = .next t ∧ t.rst = true :=
  ⟨⟨_, rfl, rfl⟩, fun _ => by unfold State.AtReset; decide, _, rfl, rfl⟩
theorem test_witness_SetAddressPhaseB :
    let s := { State.reset with phase := .saB, pend := 0x0FFF#16 }
    s.contended = false ∧ s.nextEvent = .clkRise ∧ s.rst = false ∧ s.phase = .saB := by decide
theorem test_witness_SetAddressCompletesAtTheNextEdge : State.reset.rst = false ∧
    (0x0FFF#16).toNat < Config.romBoundary ∧ (0x1000#16).toNat ≥ Config.romBoundary := by decide
theorem test_witness_GetDataSamplesTheLinesInInputMode : (at_ false true 0xABC#12 0 0).drive = false := rfl
/-- Also of `PlacedWordRunsNext`. -/
theorem test_witness_StepRunsTheDecodedCommand :
    let s := presenting 0x900BC#20 State.reset
    s.contended = false ∧ s.nextEvent = .clkRise ∧ s.rst = false ∧ s.phase = .idle ∧ s.cmdValid = true ∧
      decode s.portWord = .command (.csumAdd 0xBC#8) ∧ decodeTableWord 24 0x900BC = some (.csumAdd 0xBC#8) := by decide
/-- Each of the three kinds of illegal word. -/
theorem test_witness_IllegalWordOnlyAnswersIllegal :
    (presenting 0x00000#20 State.reset).EdgeReady ∧ (presenting 0x00000#20 State.reset).cmdOp ∈ [0x0#4] ∧
      (presenting 0x20100#20 State.reset).EdgeReady ∧ (presenting 0x20100#20 State.reset).cmdArg.extractLsb' 8 8 ≠ 0#8 ∧
      (presenting 0x30001#20 State.reset).EdgeReady ∧ (presenting 0x30001#20 State.reset).cmdArg ≠ 0#16 := by
  unfold State.EdgeReady
  decide
theorem test_witness_IdleEdgeOnlyEndsTheResponse : State.reset.EdgeReady ∧ State.reset.cmdValid = false := by
  unfold State.EdgeReady
  decide
/-- Not ready in phase B, and not ready under reset. -/
theorem test_witness_WordPresentedWhileNotReadyWaits :
    (let s := { State.reset with phase := .saB }
     s.contended = false ∧ s.nextEvent = .clkRise ∧ s.cmdReady = false) ∧
      let s := { State.reset with rst := true }
      s.contended = false ∧ s.nextEvent = .clkRise ∧ s.cmdReady = false := by decide
/-- Each branch: a waiting word withdrawn, changed or kept, and a free port. -/
theorem test_witness_HostMovesOnTheCommandPort :
    (let s := { State.reset with cmdValid := true, waiting := true, events := [.withdraw] }
     s.contended = false ∧ s.nextEvent = .withdraw ∧ s.cmdValid = true ∧ s.waiting = true) ∧
      (let s := { State.reset with cmdValid := true, waiting := true, events := [.present 0x4#4 0] }
       s.contended = false ∧ s.nextEvent = .present 0x4#4 0 ∧ ¬(s.cmdOp = 0x4#4 ∧ s.cmdArg = 0)) ∧
      let s := { State.reset with events := [.present 0x0#4 0] }
      s.contended = false ∧ s.nextEvent = .present 0x0#4 0 ∧ ¬(s.cmdValid = true ∧ s.waiting = true) := by decide
/-- An edge with a response (CSUM_READ) and one without (phase A). -/
theorem test_witness_ResponseExactlyAtCompletion :
    (presenting 0xA0000#20 State.reset).nextEvent = .clkRise ∧ (presenting 0xA0000#20 State.reset).rst = false ∧
      after State.rspValid (step (presenting 0xA0000#20 State.reset)) = some true ∧
      after State.rspValid (step (presenting 0x11000#20 State.reset)) = some false := by decide
theorem test_witness_CommandsLeaveThePortsAlone : ∃ t, exec .enableCs State.reset = .next t := ⟨_, rfl⟩
/-- `StepKeepsTheSafetyInvariant`, `NoRunEndsInContention`, `BreakBeforeMake`: phase B from a state that meets the
invariant, which makes `DRIVE` rise. -/
theorem test_witness_Inv :
    let s := { State.reset with phase := .saB, pend := 0x0000#16 }
    (¬(s.drive = true ∧ s.cs = true) ∧ (s.phase = .saB → s.cs = false)) ∧ s.drive = false ∧
      after (fun t => (t.drive, t.cs)) (step s) = some (true, false) := by decide
theorem test_witness_StatusStaysAGivenCode :
    State.reset.rspStatus ≠ 0b11#2 ∧ after State.rspStatus (step State.reset) = some 0b00#2 := by decide
/-- The states between commands of `FsmTransitionTable`, `CommandsTakeTheirCycles` and the statements about sequences:
one in each FSM state. -/
theorem test_witness_ReadyAndSafe :
    ((at_ false false 0 0 0).Ready ∧ (at_ false false 0 0 0).Safe ∧ (at_ false false 0 0 0).fsm = .inIdle) ∧
      ((at_ false true 0 0 0).Ready ∧ (at_ false true 0 0 0).Safe ∧ (at_ false true 0 0 0).fsm = .inSel) ∧
      (at_ true false 0 0 0).Ready ∧ (at_ true false 0 0 0).Safe ∧ (at_ true false 0 0 0).fsm = .out := by
  unfold State.Ready State.Safe
  decide
/-- `CommandsTakeTheirCycles`, both clauses. -/
theorem test_witness_CommandsTakeTheirCycles :
    (∃ a, decode 0x10000#20 = .command (.setAddress a)) ∧ ∀ a, decode 0x40000#20 ≠ .command (.setAddress a) :=
  ⟨⟨0x0000#16, by decide⟩, fun a => by rw [show decode 0x40000#20 = .command .enableCs by decide]; simp⟩
/-- `RegistersHaveOnlyTheirWriters`: steps outside reset in which each register changes. -/
theorem test_witness_RegistersHaveOnlyTheirWriters :
    State.reset.RunsOutsideReset ∧
      after State.addr (step { State.reset with phase := .saB, pend := 0x0123#16 }) = some 0x123#12 ∧
      after State.shadow (step (presenting 0x20042#20 State.reset)) = some 0x42#8 ∧
      after State.cs (step (presenting 0x40000#20 State.reset)) = some true ∧
      after State.acc (step (presenting 0x90001#20 State.reset)) = some 0x0001#16 ∧
      after State.phase (step { State.reset with phase := .saB }) = some .idle ∧
      after State.phase (step (presenting 0x10000#20 State.reset)) = some .saB ∧
      after State.rspStatus (step (presenting 0x00000#20 State.reset)) = some 0b10#2 ∧
      after State.rspValid (step { State.reset with rspValid := true }) = some false ∧
      after State.pend (step (presenting 0x1FFFF#20 State.reset)) = some 0xFFFF#16 := by
  unfold State.RunsOutsideReset
  decide
/-- `AddressChangesOnlyDeselected` and the second clause of `BreakBeforeMake`: chip-select rises by ENABLE_CS. -/
theorem test_witness_AddressChangesOnlyDeselected :
    let s := presenting 0x40000#20 State.reset
    s.Inv ∧ s.RunsOutsideReset ∧ s.cs = false ∧ after State.cs (step s) = some true := by
  unfold State.Inv State.Safe State.RunsOutsideReset
  decide
/-- `FullPeriodBetweenSelectAndDrive`: the host withdraws the SET_ADDRESS in the period at whose end the block begins
to drive. -/
theorem test_witness_FullPeriod_drive :
    let s := { State.reset with cmdValid := true, cmdOp := 0x1#4 }
    s.Inv ∧ s.rst = false ∧ ∃ t v w, clockEdge s = .next t ∧ runEvents [.withdraw] t = .next v ∧
      runEvents [] v = .next v ∧ clockEdge v = .next w ∧ v.drive = false ∧ w.drive = true :=
  ⟨by unfold State.Inv State.Safe; decide, rfl, _, _, _, rfl, rfl, rfl, rfl, rfl, by decide⟩
/-- The same, with an ENABLE_CS presented in the period at whose end the cartridge becomes selected. -/
theorem test_witness_FullPeriod_select :
    let s := { State.reset with drive := true, phase := .saB, pend := 0x1000#16 }
    s.Inv ∧ s.rst = false ∧ ∃ t v w, clockEdge s = .next t ∧ runEvents [.present 0x4#4 0x0000#16] t = .next v ∧
      runEvents [] v = .next v ∧ clockEdge v = .next w ∧ v.cs = false ∧ w.cs = true :=
  ⟨by unfold State.Inv State.Safe; decide, rfl, _, _, _, rfl, rfl, rfl, rfl, rfl, by decide⟩
/-- `EveryLocationInBothModes`, second clause. -/
theorem test_witness_EveryLocationInBothModes : (0x0ABC#16).toNat % 4096 = (0xFABC#16).toNat % 4096 := by decide
theorem test_witness_ChecksumIgnoresOrder : [0x01#8, 0x02#8].Perm [0x02#8, 0x01#8] := .swap _ _ _
/-- `AccHoldsTheChecksumOfTheAddedBytes`: words with no CSUM_CLEAR among them, an illegal one too. -/
theorem test_witness_AccHoldsTheChecksum :
    (∀ cw ∈ [0x90072#20, 0x00000#20, 0x10080#20], decode cw ≠ .command .csumClear) ∧ State.reset.acc = 0x0000#16 ∧
      addedBytes [0x90072#20, 0x00000#20, 0x10080#20] = [0x72#8] := by
  refine ⟨fun cw h => ?_, by decide, by decide⟩
  simp only [List.mem_cons, List.not_mem_nil, or_false] at h
  rcases h with rfl | rfl | rfl <;> decide
/-- `BusCommandsIgnoreAcc`. -/
theorem test_witness_BusCommandsIgnoreAcc :
    ∀ cw ∈ [encode (.setAddress 0x1ABC#16), encode .enableCs], ∀ i, decode cw = .command i →
      isChecksumCommand i = false := by
  intro cw h i hi
  rcases List.mem_pair.mp h with rfl | rfl
  · rw [show decode (encode (.setAddress 0x1ABC#16)) = .command (.setAddress 0x1ABC#16) by decide] at hi
    cases hi
    rfl
  · rw [show decode (encode .enableCs) = .command .enableCs by decide] at hi
    cases hi
    rfl
/-- `ChecksumCommandsIgnoreTheBus`: checksum words, and bus registers other than those of the state. -/
theorem test_witness_ChecksumCommandsIgnoreTheBus :
    (∀ cw ∈ [encode .csumRead], ∀ i, decode cw = .command i → isChecksumCommand i = true) ∧
      ¬(true = true ∧ false = true) ∧ State.reset.withBus 0xABC#12 true 0x5A#8 false 0 ≠ State.reset := by
  refine ⟨fun cw h i hi => ?_, by decide, by decide⟩
  rw [List.mem_singleton.mp h, show decode (encode .csumRead) = .command .csumRead by decide] at hi
  cases hi
  rfl
/-- `ReadProtocolAnswersTheByte`, `EmulateDrivesTheByte`, `ReadSeqBelowTheBoundaryAnswersShadow`: the arguments where
the clauses meet. -/
theorem test_witness_ReadProtocol :
    Config.romBoundary ≤ (0x1000#16).toNat ∧ (0x0FFF#16).toNat < Config.romBoundary ∧
      (0x0FFD#16).toNat + 3 ≤ Config.romBoundary := by decide
/-- `IdleLineAcceptsNothing`: ready and safe with a word still on the port. -/
theorem test_witness_IdleLineAcceptsNothing :
    let s := { State.reset with cmdValid := true, cmdOp := 0x9#4, cmdArg := 0x0001#16 }
    s.Ready ∧ s.Safe := by
  unfold State.Ready State.Safe
  decide
/-- `RunEndsAtItsLastResponse` (with `RunEndsBeforeTrailingIdles`): a run with a last response, and one without any. -/
theorem test_witness_RunEndsAtItsLastResponse :
    (State.reset.Ready ∧ State.reset.Safe) ∧
      (∃ e t, addReadIdle.endOfRun State.reset = .ok e ∧ e.state = some t) ∧
      HostProg.skip.endOfRun State.reset = .ok ⟨none, []⟩ :=
  ⟨by unfold State.Ready State.Safe; decide, ⟨_, _, rfl, rfl⟩, rfl⟩
theorem test_witness_StepsFollowTheEvents :
    (presenting 0x40000#20 State.reset).events = [.clkRise] ++ [.withdraw] := by decide

end Sys2Proof.Tests
end

section
/-! What `exec`, an edge, a port event and a step can do to the registers (spec/10_state.md R20 to R29): the layer that
the statements about the state below rest on. -/

namespace Sys2Proof.Machine

variable {s t u : State} {i : Instr}

/-! ### The meaning of each command -/

@[simp] theorem exec_setAddress (a : Word16) (s : State) :
    exec (.setAddress a) s = .next (s.startSetAddress a).noResponse := rfl
@[simp] theorem exec_setData (v : Byte) (s : State) :
    exec (.setData v) s = .next ((s.setShadow v).respond statusOk noData) := rfl
@[simp] theorem exec_getData (s : State) : exec .getData s = .next (s.respond statusOk (zext16 s.readValue)) := rfl
@[simp] theorem exec_enableCs (s : State) :
    exec .enableCs s = .next ((s.setCs (!s.drive)).markAccess.respond (enableStatus s.drive) noData) := rfl
@[simp] theorem exec_disableCs (s : State) :
    exec .disableCs s = .next ((s.setCs false).respond statusOk noData) := rfl
@[simp] theorem exec_csumClear (s : State) :
    exec .csumClear s = .next ((s.setAcc 0x0000#16).respond statusOk noData) := rfl
@[simp] theorem exec_csumAdd (b : Byte) (s : State) :
    exec (.csumAdd b) s = .next ((s.setAcc (add16 s.acc (zext16 b))).respond statusOk noData) := rfl
@[simp] theorem exec_csumRead (s : State) : exec .csumRead s = .next (s.respond statusOk s.acc) := rfl

/-- The registers each command may write at its accepting edge (10 R21 to R27, the columns "written by"). -/
theorem exec_writers (h : exec i s = .next u) :
    u.addr = s.addr ∧ u.drive = s.drive ∧
    (u.shadow ≠ s.shadow → ∃ v, i = .setData v) ∧
    (u.cs ≠ s.cs → (∃ a, i = .setAddress a) ∨ i = .enableCs ∨ i = .disableCs) ∧
    (u.acc ≠ s.acc → i = .csumClear ∨ ∃ b, i = .csumAdd b) ∧
    (u.phase ≠ s.phase → ∃ a, i = .setAddress a) ∧
    (u.pend ≠ s.pend → ∃ a, i = .setAddress a) := by
  cases i <;> (injection h with h; subst h; simp)

/-- Phase A gives no response and keeps the last one's status and data (10 R28, 30 R74). -/
theorem exec_noResponse_of_setAddress {a : Word16} (h : exec (.setAddress a) s = .next u) :
    u.rspValid = false ∧ u.rspStatus = s.rspStatus ∧ u.rspData = s.rspData := by
  rw [exec_setAddress] at h
  injection h with h
  subst h
  simp

/-- Only phase A enters `SA_B` from `IDLE`, and it deselects the cartridge (41 R130). -/
theorem exec_saB_deselected (hp : s.phase = .idle) (h : exec i s = .next u) (hu : u.phase = .saB) : u.cs = false := by
  obtain ⟨-, -, -, -, -, hphase, -⟩ := exec_writers h
  obtain ⟨a, rfl⟩ := hphase (by simp [hp, hu])
  rw [exec_setAddress] at h
  injection h with h
  subst h
  rfl

/-- The same of every accepted word: an illegal one leaves the phase. -/
theorem acceptWord_saB_deselected {cw : CommandWord} (hp : s.phase = .idle) (h : acceptWord cw s = .next u)
    (hu : u.phase = .saB) : u.cs = false := by
  obtain ⟨_, -, rfl⟩ | ⟨i, -, hi⟩ := acceptWord_cases h
  · simp [hp] at hu
  · exact exec_saB_deselected hp hi hu

/-! ### Steps that touch no register -/

/-- The two states hold the same in every register of the block (10 R20); the ports may differ. -/
structure State.SameRegisters (s t : State) : Prop where
  addr : t.addr = s.addr
  drive : t.drive = s.drive
  shadow : t.shadow = s.shadow
  cs : t.cs = s.cs
  acc : t.acc = s.acc
  phase : t.phase = s.phase
  pend : t.pend = s.pend
  rspValid : t.rspValid = s.rspValid
  rspStatus : t.rspStatus = s.rspStatus
  rspData : t.rspData = s.rspData

/-- An event that is neither an edge nor a rising `rst` writes no register (30 R71, R72). -/
theorem handleEvent_sameRegisters {e : PortEvent} (hclk : e ≠ .clkRise) (hrst : e ≠ .rstRise)
    (h : handleEvent e s = .next u) : s.SameRegisters u := by
  obtain ⟨rfl, -⟩ | ⟨rfl, -⟩ | ⟨-, rfl⟩ | ⟨_, _, -, hp⟩ | ⟨-, hw⟩ := handleEvent_cases h
  · exact absurd rfl hclk
  · exact absurd rfl hrst
  · constructor <;> rfl
  · obtain ⟨-, rfl⟩ := presentAt_cases hp
    constructor <;> rfl
  · obtain ⟨-, rfl⟩ := withdrawAt_cases hw
    constructor <;> rfl

/-! ### A step outside reset -/

/-- An accepting edge of a word that is no SET_ADDRESS completes it (30 R74). -/
theorem State.EdgeReady.completesNext (he : s.EdgeReady) (hv : s.cmdValid = true)
    (hw : ∀ a, decode s.portWord ≠ .command (.setAddress a)) : s.CompletesNext := by
  obtain ⟨-, hclk, hready⟩ := he
  obtain ⟨hrst, hphase⟩ : s.rst = false ∧ s.phase = .idle := by simpa [State.cmdReady] using hready
  exact ⟨hclk, hrst, .inr ⟨hphase, hv, hw⟩⟩

/-- An accepted command other than SET_ADDRESS completes at its accepting edge. -/
theorem State.AcceptsNext.completesNext (h : s.AcceptsNext i) (hi : ∀ a, i ≠ .setAddress a) : s.CompletesNext := by
  obtain ⟨hready, hvalid, hd⟩ := h
  exact hready.completesNext hvalid (by simpa [hd] using hi)

/-- What a step outside reset can do: leave the registers, do phase B, end the response, answer an illegal word, or
run the accepted command. -/
theorem step_cases_outside_reset (hr : s.RunsOutsideReset) (h : step s = .next t) :
    (s.nextEvent ≠ .clkRise ∧ s.SameRegisters t) ∨
    (s.nextEvent = .clkRise ∧ s.phase = .saB ∧ t = (s.phaseB.endEdge false).popEvent) ∨
    (s.EdgeReady ∧ s.cmdValid = false ∧ t = (s.noResponse.endEdge false).popEvent) ∨
    (∃ c, s.EdgeReady ∧ s.cmdValid = true ∧ decode s.portWord = .illegal c ∧
      t = (s.illegalCommand.endEdge true).popEvent) ∨
    ∃ i u, s.AcceptsNext i ∧ exec i s = .next u ∧ t = (u.endEdge true).popEvent := by
  obtain ⟨hrst, hrise⟩ := hr
  obtain ⟨hcont, v, hv, rfl⟩ := step_cases h
  by_cases hclk : s.nextEvent = .clkRise
  · rw [hclk] at hv
    obtain ⟨hon, -⟩ | ⟨-, hB, rfl⟩ | ⟨-, hidle, hvalid, rfl⟩ |
      ⟨-, hidle, hvalid, u, hu, rfl⟩ := clockEdge_cases hv
    · simp [hrst] at hon
    · exact .inr (.inl ⟨hclk, hB, rfl⟩)
    · exact .inr (.inr (.inl ⟨⟨hcont, hclk, by simp [State.cmdReady, hrst, hidle]⟩, hvalid, rfl⟩))
    · have hready : s.EdgeReady := ⟨hcont, hclk, by simp [State.cmdReady, hrst, hidle]⟩
      obtain ⟨c, hd, rfl⟩ | ⟨i, hd, hi⟩ := acceptWord_cases hu
      · exact .inr (.inr (.inr (.inl ⟨c, hready, hvalid, hd, rfl⟩)))
      · exact .inr (.inr (.inr (.inr ⟨i, u, ⟨hready, hvalid, hd⟩, hi, rfl⟩)))
  · obtain ⟨⟩ := handleEvent_sameRegisters hclk hrise hv
    exact .inl ⟨hclk, by constructor <;> assumption⟩

/-- Where the response's registers change at the edge of an accepted command, that command completes, or phase A only
ends the last response (10 R28, 30 R74). -/
theorem exec_response_writer (ha : s.AcceptsNext i) (h : exec i s = .next u)
    (hch : u.rspValid ≠ s.rspValid ∧ u.rspValid = true ∨ u.rspStatus ≠ s.rspStatus ∨ u.rspData ≠ s.rspData) :
    s.CompletesNext := by
  refine ha.completesNext ?_
  rintro a rfl
  obtain ⟨hv, hs, hd⟩ := exec_noResponse_of_setAddress h
  simp [hv, hs, hd] at hch

/-! ### The safety invariant -/

/-- The invariant speaks of registers only. -/
theorem State.Inv.of_sameRegisters (hs : s.Inv) (h : s.SameRegisters t) : t.Inv := by
  simpa [State.Inv, State.Safe, h.drive, h.cs, h.phase] using hs

/-- An edge keeps the invariant (41 R160): phase B raises `DRIVE` only where `CS = 0` since phase A. -/
theorem clockEdge_inv (hs : s.Inv) (h : clockEdge s = .next t) : t.Inv := by
  obtain ⟨hsafe, hdesel⟩ := hs
  obtain ⟨-, rfl⟩ | ⟨-, hB, rfl⟩ | ⟨-, hidle, -, rfl⟩ | ⟨-, hidle, -, u, hu, rfl⟩ := clockEdge_cases h
  · exact ⟨by simp [State.Safe], by simp⟩
  · exact ⟨by simp [State.Safe, hdesel hB], by simp⟩
  · exact ⟨hsafe, by simp [hidle]⟩
  · have husafe : u.Safe := acceptWord_safe hsafe hu
    have hudesel : u.phase = .saB → u.cs = false := acceptWord_saB_deselected hidle hu
    exact ⟨husafe, hudesel⟩

/-- Every event keeps the invariant, a rising `rst` too (70 R190). -/
theorem handleEvent_inv {e : PortEvent} (hs : s.Inv) (h : handleEvent e s = .next t) : t.Inv := by
  by_cases hclk : e = .clkRise
  · subst hclk
    exact clockEdge_inv hs h
  by_cases hrst : e = .rstRise
  · subst hrst
    injection h with h
    subst h
    exact ⟨by simp [State.Safe], by simp⟩
  · exact hs.of_sameRegisters (handleEvent_sameRegisters hclk hrst h)

/-- Every step keeps the invariant (10 R29, 41 R160). -/
theorem step_inv (hs : s.Inv) (h : step s = .next t) : t.Inv := by
  obtain ⟨-, u, hu, rfl⟩ := step_cases h
  have hinv : u.Inv := handleEvent_inv hs hu
  exact hinv

/-! ### No fault -/

/-- An edge always goes on: no command and no illegal word stops (60 R170). -/
theorem clockEdge_next (s : State) : ∃ t, clockEdge s = .next t := by
  obtain ⟨u, hu⟩ := acceptWord_next s.portWord s
  cases hr : s.rst with
  | true => simp [clockEdge, hr]
  | false =>
    cases hp : s.phase with
    | saB => simp [clockEdge, hr, hp]
    | idle => cases hv : s.cmdValid <;> simp [clockEdge, hr, hp, hv, hu]

/-- No event is a fault; the host's moves can only be refused. -/
theorem handleEvent_ne_fault (e : PortEvent) (s : State) (r : Fault) : handleEvent e s ≠ .fault r := by
  cases e with
  | clkRise =>
    obtain ⟨t, ht⟩ := clockEdge_next s
    simp [handleEvent, ht]
  | rstRise => simp [handleEvent]
  | rstFall => simp [handleEvent]
  | present op arg =>
    simp only [handleEvent, presentAt]
    split_ifs <;> simp
  | withdraw =>
    simp only [handleEvent, withdrawAt]
    split_ifs <;> simp

/-- A step from a safe state is no fault (60 R174). -/
theorem step_ne_fault (hs : s.Safe) (r : Fault) : step s ≠ .fault r := by
  rw [step_of_not_contended hs.not_contended, Ne, mapNext_eq_fault]
  exact handleEvent_ne_fault _ _ _

/-- A run stops with a fault exactly if its first step does, or the rest of the run after it. -/
theorem core_run_succ_eq_fault {M : Host.Core} {n : Nat} {s : M.State} {r : M.Fault} :
    M.run (n + 1) s = .fault r ↔ M.step s = .fault r ∨ ∃ t, M.step s = .next t ∧ M.run n t = .fault r := by
  rw [Host.Core.run]
  cases M.step s <;> simp

/-! ### A word placed on the port -/

/-- A number of the opcode table is a command exactly if it is one word of 20 bits that decodes to it. -/
theorem decodeTableWord_eq_some {n w : Nat} :
    decodeTableWord n w = some i ↔ w < 2 ^ 20 ∧ decode (BitVec.ofNat 20 w) = .command i := by
  unfold decodeTableWord
  by_cases hw : w < 2 ^ 20
  · cases decode (BitVec.ofNat 20 w) <;> simp only [hw] <;> simp
  · simp only [hw, if_false, false_and, reduceCtorEq]

/-- The word presented is the word on the port. -/
@[simp] theorem portWord_withFetchWord (s : State) (n w : Nat) :
    (s.withFetchWord n w).portWord = BitVec.ofNat 20 w := commandWord_fields _

theorem mapNext_mapNext (f g : State → State) (o : Host.Outcome State Fault Refusal) :
    mapNext f (mapNext g o) = mapNext (fun s => f (g s)) o := by
  cases o <;> rfl

/-- The edge that accepts a legal word is its command (30 R72). -/
theorem acceptWord_of_decode {cw : CommandWord} (h : decode cw = .command i) (s : State) :
    acceptWord cw s = exec i s := by
  rw [acceptWord, h]

/-- The edge at which a placed word is accepted. -/
theorem clockEdge_withFetchWord (s : State) (n w : Nat) :
    clockEdge (s.withFetchWord n w) =
      mapNext (State.endEdge · true) (acceptWord (BitVec.ofNat 20 w) (s.withFetchWord n w)) := by
  rw [← portWord_withFetchWord s n w]
  rfl

end Sys2Proof.Machine
end

section
/-! The statements about the state (spec/10_state.md). -/

namespace Sys2Proof.Machine

/-- Settles O29: the placed word is what the next edge accepts. -/
theorem placedWordRunsNext : Obligations.PlacedWordRunsNext := by
  intro s n w i hc hw
  obtain ⟨-, hd⟩ := decodeTableWord_eq_some.mp hw
  have hc' : (s.withFetchWord n w).contended = false := hc
  calc step (s.withFetchWord n w)
      = mapNext State.popEvent (clockEdge (s.withFetchWord n w)) := step_of_not_contended hc'
    _ = mapNext (fun t => (t.endEdge true).popEvent) (exec i (s.withFetchWord n w)) := by
        rw [clockEdge_withFetchWord, acceptWord_of_decode hd, mapNext_mapNext]

/-- Settles O32, by induction on the number of steps: a step from a state that meets the invariant is no fault, and the
state after it meets the invariant again. -/
theorem noRunEndsInContention : Obligations.NoRunEndsInContention := by
  intro n
  induction n with
  | zero => intro s r _ hrun; cases hrun
  | succ n ih =>
    intro s r hs hrun
    obtain hfault | ⟨t, hstep, hrest⟩ := core_run_succ_eq_fault.mp hrun
    · exact step_ne_fault hs.1 r hfault
    · exact ih t r (step_inv hs hstep) hrest

/-- Settles O36, by the cases of a step outside reset. -/
theorem registersHaveOnlyTheirWriters : Obligations.RegistersHaveOnlyTheirWriters := by
  intro s t hr h
  obtain ⟨-, hsame⟩ | ⟨hclk, hB, rfl⟩ | ⟨⟨-, hclk, -⟩, -, rfl⟩ | ⟨c, hready, hvalid, hd, rfl⟩ | ⟨i, u, ha, hu, rfl⟩ :=
    step_cases_outside_reset hr h
  · simp [hsame.addr, hsame.drive, hsame.shadow, hsame.cs, hsame.acc, hsame.phase, hsame.pend, hsame.rspValid,
      hsame.rspStatus, hsame.rspData]
  · have hcomp : s.CompletesNext := ⟨hclk, hr.1, .inl hB⟩
    simp [hclk, hB, hcomp]
  · simp [hclk]
  · have hcomp : s.CompletesNext := hready.completesNext hvalid (by simp [hd])
    simp [hcomp, hcomp.1]
  · obtain ⟨haddr, hdrive, hshadow, hcs, hacc, hphase, hpend⟩ := exec_writers hu
    have hclk : s.nextEvent = .clkRise := ha.1.2.1
    refine ⟨by simp [haddr, hdrive], fun hne => ?_, fun hne => ?_, fun hne => ?_, fun hne => ?_, fun hne => ?_,
      fun _ => hclk, fun hne => exec_response_writer ha hu hne⟩
    · obtain ⟨v, rfl⟩ := hshadow hne
      exact ⟨v, ha⟩
    · obtain ⟨a, rfl⟩ | rfl | rfl := hcs hne
      · exact .inl ⟨a, ha⟩
      · exact .inr (.inl ha)
      · exact .inr (.inr ha)
    · obtain rfl | ⟨b, rfl⟩ := hacc hne
      · exact .inl ha
      · exact .inr ⟨b, ha⟩
    · obtain ⟨a, rfl⟩ := hphase hne
      exact .inr ⟨a, ha⟩
    · obtain ⟨a, rfl⟩ := hpend hne
      exact ⟨a, ha⟩

/-- Settles O6: each register of the table, the FSM state and the pins are what `State.reset` evaluates to. -/
theorem resetStateIsTheResetTable : Obligations.ResetStateIsTheResetTable :=
  ⟨rfl, rfl, rfl, rfl, rfl, rfl, rfl, rfl, rfl, rfl, rfl⟩

/-- The pull-ups by the mode, as R32 writes it. -/
theorem cartDPull_eq (s : State) : s.cartDPull = if s.drive = false then s.shadow else 0x00#8 := by
  cases h : s.drive <;> simp [State.cartDPull, h]

/-- Settles O41. -/
theorem cartridgeSideOutputs : Obligations.CartridgeSideOutputs := by
  intro s
  rw [State.cartPins, cartDPull_eq]

/-- Settles O42: the lines are defined bit by bit. -/
theorem linesCarryTheRegistersBitByBit : Obligations.LinesCarryTheRegistersBitByBit :=
  fun _ => ⟨fun _ => rfl, fun _ => rfl⟩

end Sys2Proof.Machine
end

section
/-! The statements about the address space (spec/20_memory.md). -/

namespace Sys2Proof.Machine

/-- The location is the argument without its bits 15..12 (20 R51). -/
@[simp] theorem maskAddress_toNat (a : Word16) : (maskAddress a).toNat = a.toNat % 4096 := by
  simp [maskAddress]

/-- Arguments that agree in their low 12 bits select the same location (20 R51). -/
theorem maskAddress_eq_of_mod_eq {a b : Word16} (h : a.toNat % 4096 = b.toNat % 4096) :
    maskAddress a = maskAddress b :=
  BitVec.eq_of_toNat_eq (by simpa using h)

/-- The direction split at the boundary's value (20 R52). -/
theorem driveOf_eq_true_iff (a : Word16) : driveOf a = true ↔ a.toNat < 0x1000 := by
  rw [driveOf_eq, decide_eq_true_iff, Config.romBoundary]

theorem driveOf_eq_false_iff (a : Word16) : driveOf a = false ↔ 0x1000 ≤ a.toNat := by
  rw [driveOf_eq, decide_eq_false_iff_not, not_lt, Config.romBoundary]

/-- The argument that selects a location in output mode is the location's own number. -/
theorem toNat_outputArg (l : Location) : (l.setWidth 16).toNat = l.toNat :=
  BitVec.toNat_setWidth_of_le (by decide)

/-- The argument that selects a location in input mode; the sum does not wrap. -/
theorem toNat_inputArg (l : Location) : (0x1000#16 + l.setWidth 16).toNat = 0x1000 + l.toNat := by
  have hl : l.toNat < 4096 := l.isLt
  rw [BitVec.toNat_add, toNat_outputArg, BitVec.toNat_ofNat]
  omega

/-- Settles O40: the two arguments of a location lie on the two sides of the boundary and agree with it modulo 4096. -/
theorem everyLocationInBothModes : Obligations.EveryLocationInBothModes := by
  refine ⟨fun l => ?_, fun _ _ => maskAddress_eq_of_mod_eq, driveOf_eq_true_iff⟩
  have hl : l.toNat < 4096 := l.isLt
  refine ⟨(driveOf_eq_true_iff _).mpr ?_, BitVec.eq_of_toNat_eq ?_,
    (driveOf_eq_false_iff _).mpr ?_, BitVec.eq_of_toNat_eq ?_⟩
  · rwa [toNat_outputArg]
  · rw [maskAddress_toNat, toNat_outputArg, Nat.mod_eq_of_lt hl]
  · rw [toNat_inputArg]
    exact Nat.le_add_right _ _
  · rw [maskAddress_toNat, toNat_inputArg, Nat.add_mod_left, Nat.mod_eq_of_lt hl]

end Sys2Proof.Machine
end

section
/-! The command set as fields of a word (spec/30_encoding.md R76 to R83, R88): what `decodeFields` accepts, the opcode
of each row of the map, and the well-formed fields. -/

namespace Sys2Proof

variable {op : BitVec 4} {arg : Word16} {i : Instr}

/-! ### Words by their two fields -/

theorem commandWord_inj {op' : BitVec 4} {arg' : Word16} :
    commandWord op arg = commandWord op' arg' ↔ op = op' ∧ arg = arg' := by
  refine ⟨fun h => ⟨?_, ?_⟩, fun ⟨hop, harg⟩ => by rw [hop, harg]⟩
  · simpa using congrArg opField h
  · simpa using congrArg argField h

/-- A mask on a word is a mask on each field (R80). -/
theorem commandWord_and (op op' : BitVec 4) (arg arg' : Word16) :
    commandWord op arg &&& commandWord op' arg' = commandWord (op &&& op') (arg &&& arg') :=
  BitVec.and_append

/-- The number of a word is `(op << 16) | arg` (R76, R88). -/
theorem toNat_commandWord (op : BitVec 4) (arg : Word16) :
    (commandWord op arg).toNat = op.toNat * 65536 + arg.toNat := by
  rw [commandWord, BitVec.toNat_append, ← Nat.shiftLeft_add_eq_or_of_lt arg.isLt, Nat.shiftLeft_eq]

/-! ### Decoding an encoded command -/

/-- The operand forms read back the operand of an encoded byte command. -/
theorem decodeByteForm_setWidth (mk : Byte → Instr) (b : Byte) :
    decodeByteForm mk (b.setWidth 16) = .command (mk b) := by
  obtain ⟨hhigh, hlow⟩ := byteOperand_setWidth b
  rw [decodeByteForm, if_pos hhigh, hlow]

theorem decodeFields_opOf_argOf (i : Instr) : decodeFields (opOf i) (argOf i) = .command i := by
  cases i with
  | setData b => exact decodeByteForm_setWidth .setData b
  | csumAdd b => exact decodeByteForm_setWidth .csumAdd b
  | setAddress | getData | enableCs | disableCs | csumClear | csumRead => rfl

@[simp] theorem decode_encode (i : Instr) : decode (encode i) = .command i := by
  rw [encode, decode_commandWord, decodeFields_opOf_argOf]

/-! ### Encoding a decoded command -/

theorem decodeByteForm_eq_command {mk : Byte → Instr} (h : decodeByteForm mk arg = .command i) :
    i = mk (byteOperand arg) ∧ (byteOperand arg).setWidth 16 = arg := by
  unfold decodeByteForm at h
  split at h
  · rename_i hhigh
    injection h with h
    exact ⟨h.symm, setWidth_byteOperand hhigh⟩
  · cases h

theorem decodePlainForm_eq_command {j : Instr} (h : decodePlainForm j arg = .command i) : i = j ∧ arg = 0#16 := by
  unfold decodePlainForm at h
  split at h
  · rename_i harg
    injection h with h
    exact ⟨h.symm, harg⟩
  · cases h

/-- The fields that decode to a command are that command's own (R77, R81). -/
theorem fields_of_decodeFields (h : decodeFields op arg = .command i) : opOf i = op ∧ argOf i = arg := by
  unfold decodeFields at h
  split_ifs at h with h1 h2 h3 h4 h5 h8 h9 hA
  · injection h with h
    subst h
    exact ⟨h1.symm, rfl⟩
  · obtain ⟨rfl, hb⟩ := decodeByteForm_eq_command h
    exact ⟨h2.symm, hb⟩
  · obtain ⟨rfl, rfl⟩ := decodePlainForm_eq_command h
    exact ⟨h3.symm, rfl⟩
  · obtain ⟨rfl, rfl⟩ := decodePlainForm_eq_command h
    exact ⟨h4.symm, rfl⟩
  · obtain ⟨rfl, rfl⟩ := decodePlainForm_eq_command h
    exact ⟨h5.symm, rfl⟩
  · obtain ⟨rfl, rfl⟩ := decodePlainForm_eq_command h
    exact ⟨h8.symm, rfl⟩
  · obtain ⟨rfl, hb⟩ := decodeByteForm_eq_command h
    exact ⟨h9.symm, hb⟩
  · obtain ⟨rfl, rfl⟩ := decodePlainForm_eq_command h
    exact ⟨hA.symm, rfl⟩

theorem decode_eq_command_iff {cw : CommandWord} : decode cw = .command i ↔ encode i = cw := by
  refine ⟨fun h => ?_, fun h => h ▸ decode_encode i⟩
  obtain ⟨hop, harg⟩ := fields_of_decodeFields h
  rw [encode, hop, harg, commandWord_fields]

/-! ### The rows of the opcode map and the well-formed fields -/

/-- The opcode of each row of the map (R80). -/
def rowOp : Fin 8 → BitVec 4 := ![0x1#4, 0x2#4, 0x3#4, 0x4#4, 0x5#4, 0x8#4, 0x9#4, 0xA#4]

theorem rowOp_rowOf (i : Instr) : rowOp (rowOf i) = opOf i := by cases i <;> rfl

theorem rowOp_injective : Function.Injective rowOp := by decide

/-- R80, R82: the assigned ops are those of the rows. -/
theorem opAssigned_iff : opAssigned op = true ↔ ∃ k, op = rowOp k := by
  revert op
  decide

/-- Every row of the map fixes the op's four bits to its opcode and the reserved bits to 0. -/
theorem opcodeRows_fields {k : Fin 8} {r : OpcodeRow} (h : opcodeRows[k.val]? = some r) :
    r.pattern = commandWord (rowOp k) 0#16 ∧ r.mask = commandWord 0xF#4 (reservedMask (rowOp k)) := by
  have hrows : ∀ k : Fin 8, ∃ r, opcodeRows[k.val]? = some r ∧
      r.pattern = commandWord (rowOp k) 0#16 ∧ r.mask = commandWord 0xF#4 (reservedMask (rowOp k)) := by
    intro k
    fin_cases k <;> exact ⟨_, rfl, by decide⟩
  obtain ⟨r', hr', hfields⟩ := hrows k
  rw [hr'] at h
  injection h with h
  exact h ▸ hfields

/-- R77, R83: the reserved bits of a byte form are the argument's high half. -/
theorem setWidth_byteOperand_of_reserved (h : arg &&& 0xFF00#16 = 0#16) : (byteOperand arg).setWidth 16 = arg := by
  have hhigh : (arg &&& 0xFF00#16).extractLsb' 8 8 = 0#8 := by rw [h]; rfl
  rw [BitVec.extractLsb'_and] at hhigh
  exact setWidth_byteOperand (BitVec.and_allOnes.symm.trans hhigh)

/-- R83: without an operand all argument bits are reserved. -/
theorem eq_zero_of_reserved (h : arg &&& 0xFFFF#16 = 0#16) : arg = 0#16 :=
  BitVec.and_allOnes.symm.trans h

theorem wellFormedFields_opOf_argOf (i : Instr) : wellFormedFields (opOf i) (argOf i) = true := by
  obtain ⟨-, -, hwf⟩ : Laws.EncodedWord.Statement i :=
    match i with
    | .setAddress a => Laws.EncodedWord.setAddress a
    | .setData b => Laws.EncodedWord.setData b
    | .getData => Laws.EncodedWord.getData
    | .enableCs => Laws.EncodedWord.enableCs
    | .disableCs => Laws.EncodedWord.disableCs
    | .csumClear => Laws.EncodedWord.csumClear
    | .csumAdd b => Laws.EncodedWord.csumAdd b
    | .csumRead => Laws.EncodedWord.csumRead
  exact hwf

/-- Every well-formed pair of fields is some command's (R77, R82, R83), row by row. -/
theorem exists_instr_of_wellFormedFields (h : wellFormedFields op arg = true) : ∃ i, opOf i = op ∧ argOf i = arg := by
  obtain ⟨hop, hres⟩ := Bool.and_eq_true_iff.mp h
  obtain ⟨k, rfl⟩ := opAssigned_iff.mp hop
  replace hres : arg &&& reservedMask (rowOp k) = 0#16 := of_decide_eq_true hres
  match k with
  | 0 => exact ⟨.setAddress arg, rfl, rfl⟩
  | 1 => exact ⟨.setData (byteOperand arg), rfl, setWidth_byteOperand_of_reserved hres⟩
  | 2 => exact ⟨.getData, rfl, (eq_zero_of_reserved hres).symm⟩
  | 3 => exact ⟨.enableCs, rfl, (eq_zero_of_reserved hres).symm⟩
  | 4 => exact ⟨.disableCs, rfl, (eq_zero_of_reserved hres).symm⟩
  | 5 => exact ⟨.csumClear, rfl, (eq_zero_of_reserved hres).symm⟩
  | 6 => exact ⟨.csumAdd (byteOperand arg), rfl, setWidth_byteOperand_of_reserved hres⟩
  | 7 => exact ⟨.csumRead, rfl, (eq_zero_of_reserved hres).symm⟩

/-- A word decodes to a command exactly if its fields are well-formed. -/
theorem exists_decode_eq_command_iff {cw : CommandWord} :
    (∃ i, decode cw = .command i) ↔ wellFormedFields (opField cw) (argField cw) = true := by
  constructor
  · rintro ⟨i, h⟩
    obtain ⟨hop, harg⟩ := fields_of_decodeFields h
    rw [← hop, ← harg]
    exact wellFormedFields_opOf_argOf i
  · intro h
    obtain ⟨i, hop, harg⟩ := exists_instr_of_wellFormedFields h
    exact ⟨i, by rw [decode, ← hop, ← harg, decodeFields_opOf_argOf]⟩

/-- A word selects a row exactly if its op is the row's and no reserved bit is set (R80). -/
theorem and_mask_eq_pattern_iff {k : Fin 8} {r : OpcodeRow} (h : opcodeRows[k.val]? = some r) (cw : CommandWord) :
    cw &&& r.mask = r.pattern ↔ opField cw = rowOp k ∧ argField cw &&& reservedMask (rowOp k) = 0#16 := by
  obtain ⟨hpattern, hmask⟩ := opcodeRows_fields h
  have hop : opField cw &&& 0xF#4 = opField cw := BitVec.and_allOnes
  rw [hpattern, hmask, ← commandWord_fields cw, commandWord_and, commandWord_inj]
  simp only [commandWord_fields, hop]

end Sys2Proof
end

section
/-! The statements about the encoding (spec/30_encoding.md R76 to R88). -/

namespace Sys2Proof.Machine

/-- Settles O1, command by command: the fields of the word are the command's opcode and argument, and these decode
to it. -/
theorem decodeOfEncode : Obligations.DecodeOfEncode := decode_encode

/-- Settles O2: the decoder is the inverse of the encoder, and its range is the well-formed words. -/
theorem decodeAcceptsExactlyTheWellFormedWords : Obligations.DecodeAcceptsExactlyTheWellFormedWords :=
  fun _ => ⟨fun _ => decode_eq_command_iff.mp, exists_decode_eq_command_iff⟩

/-- Settles O3: both sides say that the op is the row's and the fields are well-formed, and the op tells the row. -/
theorem opcodeMapSelectsTheDecodedRow : Obligations.OpcodeMapSelectsTheDecodedRow := by
  intro cw k r hr
  rw [and_mask_eq_pattern_iff hr]
  constructor
  · rintro ⟨hop, hres⟩
    have hwf : wellFormedFields (opField cw) (argField cw) = true := by
      simp [wellFormedFields, reservedZero, opAssigned_iff, hop, hres]
    obtain ⟨i, hi⟩ := exists_decode_eq_command_iff.mpr hwf
    refine ⟨i, hi, rowOp_injective ?_⟩
    rw [rowOp_rowOf, (fields_of_decodeFields hi).1, hop]
  · rintro ⟨i, hi, rfl⟩
    obtain ⟨hop, harg⟩ := fields_of_decodeFields hi
    have hwf := wellFormedFields_opOf_argOf i
    obtain ⟨-, hres⟩ := Bool.and_eq_true_iff.mp hwf
    rw [rowOp_rowOf, ← hop, ← harg]
    exact ⟨rfl, of_decide_eq_true hres⟩

/-- The word of a command as a number, for an argument given as a number (30 R88). -/
theorem encode_eq_ofNat {i : Instr} {n : Nat} (h : (argOf i).toNat = n) :
    encode i = BitVec.ofNat 20 ((opOf i).toNat * 65536 + n) := by
  rw [← h, ← toNat_commandWord, BitVec.ofNat_toNat, BitVec.setWidth_eq, encode]

/-- The same of a line that is refused unless its immediate fits. -/
theorem map_encode_ite {fits : Prop} [Decidable fits] (i : Instr) {n : Nat} (h : fits → (argOf i).toNat = n) :
    (if fits then some i else none).map encode =
      if fits then some (BitVec.ofNat 20 ((opOf i).toNat * 65536 + n)) else none := by
  split_ifs with hfits
  · exact congrArg some (encode_eq_ofNat (h hfits))
  · rfl

/-- An immediate that fits a byte is the argument of its byte command. -/
theorem toNat_byteArg {n : Nat} (h : n < 256) : ((BitVec.ofNat 8 n).setWidth 16).toNat = n := by
  rw [BitVec.toNat_setWidth_of_le (by decide), BitVec.toNat_ofNat, Nat.mod_eq_of_lt h]

/-- Settles O5: an immediate that fits is the argument's number. -/
theorem assembledWordIsOpcodeAndImmediate : Obligations.AssembledWordIsOpcodeAndImmediate :=
  ⟨fun _ => map_encode_ite (.setAddress _) fun h => Nat.mod_eq_of_lt h,
    fun _ => map_encode_ite (.setData _) toNat_byteArg,
    fun _ => map_encode_ite (.csumAdd _) toNat_byteArg, rfl, rfl, rfl, rfl, rfl⟩

/-- Settles O4. -/
theorem specWordsDecode : Obligations.SpecWordsDecode := by
  unfold Obligations.SpecWordsDecode
  decide

end Sys2Proof.Machine
end

section
/-! The command port and the response at an edge (spec/30_encoding.md R70 to R75, R84): what `exec`, an edge and a step
do to them, and when a whole command is over. -/

namespace Sys2Proof.Machine

variable {s t u : State} {i : Instr} {cw : CommandWord}

/-! ### What a command does to the ports and the response -/

/-- No command writes an input port or the events, the waiting word and the edge number of the model's own (R70). -/
theorem exec_ports (h : exec i s = .next u) :
    u.rst = s.rst ∧ u.cmdValid = s.cmdValid ∧ u.cmdOp = s.cmdOp ∧ u.cmdArg = s.cmdArg ∧
      u.events = s.events ∧ u.waiting = s.waiting ∧ u.edge = s.edge := by
  cases i <;> (injection h with h; subst h; simp)

/-- A command answers at its accepting edge exactly if it is no SET_ADDRESS (R74). -/
theorem exec_rspValid (h : exec i s = .next u) : u.rspValid = true ↔ ∀ a, i ≠ .setAddress a := by
  cases i <;> (injection h with h; subst h; simp)

/-- The status a command gives is OK or CS_REFUSED; phase A leaves the last one (R84). -/
theorem exec_rspStatus (h : exec i s = .next u) :
    u.rspStatus = s.rspStatus ∨ u.rspStatus = statusOk ∨ u.rspStatus = statusCsRefused := by
  cases i with
  | enableCs =>
    injection h with h
    subst h
    cases s.drive <;> simp [enableStatus]
  | setAddress | setData | getData | disableCs | csumClear | csumAdd | csumRead =>
    injection h with h
    subst h
    simp

/-- An accepted word keeps the edge number until the edge is over. -/
theorem acceptWord_edge (h : acceptWord cw s = .next u) : u.edge = s.edge := by
  obtain ⟨_, -, rfl⟩ | ⟨i, -, hi⟩ := acceptWord_cases h
  · rfl
  · obtain ⟨-, -, -, -, -, -, hedge⟩ := exec_ports hi
    exact hedge

/-- An accepted word answers at its edge exactly if it is no SET_ADDRESS (R74). -/
theorem acceptWord_rspValid (h : acceptWord cw s = .next u) :
    u.rspValid = true ↔ ∀ a, decode cw ≠ .command (.setAddress a) := by
  obtain ⟨c, hd, rfl⟩ | ⟨i, hd, hi⟩ := acceptWord_cases h
  · simp [hd]
  · simp [hd, exec_rspValid hi]

/-! ### The edge that accepts a word, and the edge that is not ready for one -/

/-- The block is ready only in phase IDLE (R73). -/
theorem State.EdgeReady.phase_idle (h : s.EdgeReady) : s.phase = .idle := by
  obtain ⟨-, -, hready⟩ := h
  exact of_decide_eq_true (Bool.and_eq_true_iff.mp hready).2

/-- R72: the edge at which a presented word is accepted. -/
theorem clockEdge_of_presented (hrst : s.rst = false) (hphase : s.phase = .idle) (hvalid : s.cmdValid = true) :
    clockEdge s = mapNext (State.endEdge · true) (acceptWord s.portWord s) := by
  simp [clockEdge, hrst, hphase, hvalid]

/-- What an edge does that is not ready for a word: the reset under `rst`, else phase B (R71, R73). -/
def State.unreadyEdge (s : State) : State := if s.rst then s.resetRegisters else s.phaseB

theorem clockEdge_of_not_ready (h : s.cmdReady = false) : clockEdge s = .next (s.unreadyEdge.endEdge false) := by
  cases hrst : s.rst with
  | true => simp [clockEdge, State.unreadyEdge, hrst]
  | false =>
    have hphase : s.phase = .saB := by
      cases hp : s.phase with
      | saB => rfl
      | idle => simp [State.cmdReady, hrst, hp] at h
    simp [clockEdge, State.unreadyEdge, hrst, hphase]

/-- The command port replaced. -/
def State.withPort (s : State) (v : Bool) (op : BitVec 4) (arg : Word16) : State :=
  { s with cmdValid := v, cmdOp := op, cmdArg := arg }

/-- An edge that is not ready does not see the command port (60 R173). -/
theorem unreadyEdge_withPort (s : State) (v : Bool) (op : BitVec 4) (arg : Word16) :
    (s.withPort v op arg).unreadyEdge = s.unreadyEdge.withPort v op arg := by
  cases hrst : s.rst <;> simp [State.unreadyEdge, State.withPort, hrst] <;> rfl

theorem unreadyEdge_port (s : State) :
    s.unreadyEdge.cmdValid = s.cmdValid ∧ s.unreadyEdge.cmdOp = s.cmdOp ∧ s.unreadyEdge.cmdArg = s.cmdArg := by
  cases hrst : s.rst <;> simp [State.unreadyEdge, hrst]

/-- A step at an edge that is not ready for a word. -/
theorem step_of_not_ready (hc : s.contended = false) (hclk : s.nextEvent = .clkRise) (hready : s.cmdReady = false) :
    step s = .next (s.unreadyEdge.endEdge false).popEvent := by
  rw [step_of_not_contended hc, hclk, handleEvent, clockEdge_of_not_ready hready, mapNext_next]

/-! ### The host's moves (R72, 70 R206) -/

theorem withdrawAt_eq (s : State) :
    withdrawAt s =
      if s.cmdValid = true ∧ s.waiting = true then .refused .hostChangedCommand else .next (withdrawnWord s) :=
  if_congr Bool.and_eq_true_iff rfl rfl

theorem presentAt_eq (op : BitVec 4) (arg : Word16) (s : State) :
    presentAt op arg s =
      if (s.cmdValid = true ∧ s.waiting = true) ∧ ¬(s.cmdOp = op ∧ s.cmdArg = arg) then .refused .hostChangedCommand
      else .next { s.withPort true op arg with waiting := true } :=
  if_congr (by simp [State.mustHold, imp_iff_not_or]) rfl rfl

/-! ### A whole command -/

/-- What a whole SET_ADDRESS leaves: phase B after phase A. -/
theorem commandResult_setAddress {a : Word16} (h : decode cw = .command (.setAddress a)) (s : State) :
    commandResult cw s =
      (withdrawnWord (((presentedWord cw s).startSetAddress a).noResponse.endEdge true)).phaseB.endEdge false := by
  rw [commandResult, h]

/-- What any other whole command leaves: its one edge. -/
theorem commandResult_of_acceptWord (h : ∀ a, decode cw ≠ .command (.setAddress a))
    (hu : acceptWord cw (presentedWord cw s) = .next u) : commandResult cw s = withdrawnWord (u.endEdge true) := by
  unfold commandResult
  split
  · rename_i a hd
    exact absurd hd (h a)
  · rw [hu]

/-- What a whole legal command other than SET_ADDRESS leaves, by its meaning. -/
theorem commandResult_encode (h : ∀ a, i ≠ .setAddress a) (hu : exec i (presentedWord (encode i) s) = .next u) :
    commandResult (encode i) s = withdrawnWord (u.endEdge true) :=
  commandResult_of_acceptWord (by simpa using h) ((acceptWord_of_decode (decode_encode i) _).trans hu)

/-! ### The checksum commands as lines -/

theorem commandResult_csumClear (s : State) :
    (commandResult (encode .csumClear) s).acc = 0x0000#16 ∧
      (commandResult (encode .csumClear) s).cartPins = s.cartPins := by
  rw [commandResult_encode (by simp) (exec_csumClear _)]
  exact ⟨rfl, rfl⟩

theorem commandResult_csumAdd (b : Byte) (s : State) :
    (commandResult (encode (.csumAdd b)) s).acc = add16 s.acc (zext16 b) ∧
      (commandResult (encode (.csumAdd b)) s).cartPins = s.cartPins := by
  rw [commandResult_encode (by simp) (exec_csumAdd b _)]
  exact ⟨rfl, rfl⟩

theorem commandResult_csumRead (s : State) :
    (commandResult (encode .csumRead) s).response = some ⟨statusOk, s.acc⟩ ∧
      (commandResult (encode .csumRead) s).cartPins = s.cartPins := by
  rw [commandResult_encode (by simp) (exec_csumRead _)]
  exact ⟨rfl, rfl⟩

/-- The checksum of a sequence is its first byte and the checksum of the rest (40 R105). -/
theorem checksum_cons (b : Byte) (bytes : List Byte) : checksum (b :: bytes) = add16 (zext16 b) (checksum bytes) := by
  simp [checksum, add16, zext16, BitVec.ofNat_add]

/-- A run of CSUM_ADD lines adds the checksum of their bytes to `ACC` and keeps the pins, whatever follows (40 R103). -/
theorem runEvents_csumAddLines (bytes : List Byte) (es : List PortEvent) (hr : s.Ready) (hs : s.Safe) :
    ∃ t, runEvents (linesEvents (bytes.map fun b => commandLine (.csumAdd b)) ++ es) s = runEvents es t ∧
      t.Ready ∧ t.Safe ∧ t.acc = add16 s.acc (checksum bytes) ∧ t.cartPins = s.cartPins := by
  induction bytes generalizing s with
  | nil => exact ⟨s, rfl, hr, hs, (BitVec.add_zero _).symm, rfl⟩
  | cons b bytes ih =>
    obtain ⟨hr', hs'⟩ := commandResult_ready (encode (.csumAdd b)) hr hs
    obtain ⟨hacc', hpins'⟩ := commandResult_csumAdd b s
    obtain ⟨t, ht, htr, hts, hacc, hpins⟩ := ih hr' hs'
    refine ⟨t, ?_, htr, hts, ?_, hpins.trans hpins'⟩
    · rw [← ht, ← runEvents_commandEvents _ _ hr hs, ← List.append_assoc]
      rfl
    · rw [hacc, hacc', checksum_cons, add16, add16, add16, add16, BitVec.add_assoc]

end Sys2Proof.Machine
end

section
/-! The statements about the host port: its edges, its responses and its lines (spec/30_encoding.md R70 to R75, R84,
R89, R92). -/

namespace Sys2Proof.Machine

/-- Settles O21. -/
theorem commandsLeaveThePortsAlone : Obligations.CommandsLeaveThePortsAlone :=
  fun _ _ _ => exec_ports

/-- Settles O25: an edge that is not ready is the same function of the registers with any word on the port. -/
theorem wordPresentedWhileNotReadyWaits : Obligations.WordPresentedWhileNotReadyWaits := by
  intro s v op arg hc hclk hready
  obtain ⟨hvalid, hop, harg⟩ := unreadyEdge_port s
  refine ⟨_, step_of_not_ready hc hclk hready, hvalid, hop, harg, hvalid, ?_⟩
  change step (s.withPort v op arg) = _
  rw [step_of_not_ready (s := s.withPort v op arg) hc hclk hready, unreadyEdge_withPort]
  rfl

/-- Settles O28, by the cases of a step outside reset. -/
theorem responseExactlyAtCompletion : Obligations.ResponseExactlyAtCompletion := by
  intro s t hclk hrst h
  obtain ⟨hne, -⟩ | ⟨-, hB, rfl⟩ | ⟨hready, hvalid, rfl⟩ | ⟨c, hready, hvalid, hd, rfl⟩ |
    ⟨i, u, ⟨hready, hvalid, hd⟩, hu, rfl⟩ := step_cases_outside_reset ⟨hrst, by simp [hclk]⟩ h
  · exact absurd hclk hne
  · simp [hB]
  · simp [hready.phase_idle, hvalid]
  · simp [hready.phase_idle, hvalid, hd]
  · refine ⟨by simp [hready.phase_idle, hvalid, hd, exec_rspValid hu], fun hno => ?_⟩
    obtain ⟨a, rfl⟩ : ∃ a, i = .setAddress a := by
      by_contra hall
      have hyes : u.rspValid = true := (exec_rspValid hu).mpr (by simpa using hall)
      simp [hyes] at hno
    obtain ⟨-, hkept⟩ := exec_noResponse_of_setAddress hu
    exact hkept

/-- Settles O33: every status that is written is one of the three of the table. -/
theorem statusStaysAGivenCode : Obligations.StatusStaysAGivenCode := by
  intro s t hs h
  obtain ⟨-, u, hu, rfl⟩ := step_cases h
  by_cases hclk : s.nextEvent = .clkRise
  · rw [hclk] at hu
    obtain ⟨-, rfl⟩ | ⟨-, -, rfl⟩ | ⟨-, -, -, rfl⟩ | ⟨-, -, -, v, hv, rfl⟩ := clockEdge_cases hu
    · simp [statusOk]
    · simp [statusOk]
    · simpa using hs
    · obtain ⟨_, -, rfl⟩ | ⟨i, -, hi⟩ := acceptWord_cases hv
      · simp [statusIllegal]
      · obtain hst | hst | hst := exec_rspStatus hi
        · simpa [hst] using hs
        · simp [hst, statusOk]
        · simp [hst, statusCsRefused]
  by_cases hrise : s.nextEvent = .rstRise
  · rw [hrise] at hu
    injection hu with hu
    subst hu
    simp [statusOk]
  · have hsame : s.SameRegisters u := handleEvent_sameRegisters hclk hrise hu
    simpa [hsame.rspStatus] using hs

/-- Settles O35: the two kinds of whole command count their edges. -/
theorem commandsTakeTheirCycles : Obligations.CommandsTakeTheirCycles := by
  intro cw s hr hs
  refine ⟨_, runCommand_eq cw hr hs, ?_⟩
  by_cases hsa : ∃ a, decode cw = .command (.setAddress a)
  · obtain ⟨a, hd⟩ := hsa
    rw [commandResult_setAddress hd]
    exact ⟨rfl, fun _ => rfl, fun hne => absurd hd (hne a)⟩
  · have hne : ∀ a, decode cw ≠ .command (.setAddress a) := fun a hd => hsa ⟨a, hd⟩
    obtain ⟨u, hu⟩ := acceptWord_next cw (presentedWord cw s)
    rw [commandResult_of_acceptWord hne hu]
    have hedge : u.edge = (presentedWord cw s).edge := acceptWord_edge hu
    exact ⟨(acceptWord_rspValid hu).mpr hne, fun h => absurd h hsa, fun _ => congrArg (· + 1) hedge⟩

/-- Settles O50: CSUM_CLEAR, the CSUM_ADDs by induction on the bytes, and CSUM_READ. -/
theorem checksumMacroAnswersTheChecksum : Obligations.ChecksumMacroAnswersTheChecksum := by
  intro bytes s hr hs
  obtain ⟨hr₁, hs₁⟩ := commandResult_ready (encode .csumClear) hr hs
  obtain ⟨hacc₁, hpins₁⟩ := commandResult_csumClear s
  obtain ⟨t, ht, htr, hts, hacc, hpins⟩ := runEvents_csumAddLines bytes (commandEvents (encode .csumRead)) hr₁ hs₁
  obtain ⟨hrsp, hpins₂⟩ := commandResult_csumRead t
  have hsum : t.acc = checksum bytes := by rw [hacc, hacc₁, add16, BitVec.zero_add]
  have hevents : linesEvents (checksumLines bytes) =
      commandEvents (encode .csumClear) ++ (linesEvents (bytes.map fun b => commandLine (.csumAdd b)) ++
        commandEvents (encode .csumRead)) := by
    simp [linesEvents, checksumLines, commandLine, lineEvents]
  refine ⟨commandResult (encode .csumRead) t, ?_, hsum ▸ hrsp, ?_, (commandResult_ready _ htr hts).1⟩
  · rw [hevents, runEvents_commandEvents _ _ hr hs, ht]
    exact runCommand_eq _ htr hts
  · rw [hpins₂, hpins, hpins₁]

/-- Settles O54: `IDLE n+1` leaves the idled state. -/
theorem idleLineAcceptsNothing : Obligations.IdleLineAcceptsNothing := by
  intro n s hr hs
  have hrun : runEvents (idleEvents (n + 1) ++ []) s = .next (idledState (n + 1) s) :=
    runEvents_idleEvents (n + 1) [] hr hs
  rw [List.append_nil] at hrun
  exact ⟨rfl, _, hrun, idledState_ready _ hr, rfl, rfl, rfl, rfl, rfl, rfl, rfl, rfl, rfl, rfl, rfl, rfl⟩

/-- Settles O8. -/
theorem fallingRstKeepsTheRegisters : Obligations.FallingRstKeepsTheRegisters := by
  intro s hc hfall
  rw [step_of_not_contended hc, hfall]
  rfl

/-- Settles O22: the edge accepts the word on the port, and that word is the command. -/
theorem stepRunsTheDecodedCommand : Obligations.StepRunsTheDecodedCommand := by
  intro s i hc hclk hrst hphase hvalid hd
  rw [step_of_not_contended hc, hclk, handleEvent, clockEdge_of_presented hrst hphase hvalid, acceptWord_of_decode hd,
    mapNext_mapNext]
  rfl

/-- Settles O26: the duty of R206 is the guard of both moves. -/
theorem hostMovesOnTheCommandPort : Obligations.HostMovesOnTheCommandPort := by
  intro s hc
  refine ⟨fun hw => ?_, fun op arg hp => ?_⟩
  · rw [step_of_not_contended hc, hw, handleEvent, withdrawAt_eq, apply_ite (mapNext State.popEvent)]
    rfl
  · rw [step_of_not_contended hc, hp, handleEvent, presentAt_eq, apply_ite (mapNext State.popEvent)]
    rfl

end Sys2Proof.Machine
end

section
/-! The checksum of a sequence (spec/40_checksum.md R105, R110 to R112) and what a list of whole commands leaves (R103,
R113). -/

namespace Sys2Proof.Machine

variable {s : State} {i : Instr} {cw : CommandWord} {cws : List CommandWord} {f : State → State}

/-! ### The checksum of a sequence -/

theorem checksum_append (h p : List Byte) : checksum (h ++ p) = add16 (checksum h) (checksum p) := by
  simp [checksum, add16, BitVec.ofNat_add]

theorem checksum_eq_of_perm {b c : List Byte} (h : b.Perm c) : checksum b = checksum c := by
  rw [checksum, checksum, (h.map BitVec.toNat).sum_eq]

/-- The two bytes of a field are the same ones in either byte order. -/
theorem wireBytes_perm (e e' : WireEndian) (v : Word16) : (wireBytes e v).Perm (wireBytes e' v) :=
  match e, e' with
  | .little, .little | .big, .big => .refl _
  | .little, .big | .big, .little => .swap _ _ _

/-- So are the bytes of a header (20_memory.md R53). -/
theorem headerBytes_perm (e e' : WireEndian) (h : FrameHeader) : (headerBytes e h).Perm (headerBytes e' h) :=
  (((List.Perm.refl _).append (wireBytes_perm e e' _)).append (wireBytes_perm e e' _)).append (wireBytes_perm e e' _)

/-! ### A list of whole commands -/

/-- What whole commands leave, one after the other (20_memory.md R60). -/
def commandsResult (cws : List CommandWord) (s : State) : State := cws.foldl (fun s cw => commandResult cw s) s

@[simp] theorem commandsResult_nil (s : State) : commandsResult [] s = s := rfl
@[simp] theorem commandsResult_cons (cw : CommandWord) (cws : List CommandWord) (s : State) :
    commandsResult (cw :: cws) s = commandsResult cws (commandResult cw s) := rfl

/-- From a ready and safe state every list of words runs to its end. -/
theorem runCommands_eq (cws : List CommandWord) (hr : s.Ready) (hs : s.Safe) :
    runCommands cws s = .next (commandsResult cws s) := by
  induction cws generalizing s with
  | nil => rfl
  | cons cw cws ih =>
    obtain ⟨hr', hs'⟩ := commandResult_ready cw hr hs
    rw [runCommands, runCommand_eq cw hr hs, bindNext_next, ih hr' hs', commandsResult_cons]

/-- In contention the first event of a command is the fault (60_exceptions.md R174). -/
theorem runCommand_of_contended (cw : CommandWord) (h : s.contended = true) : runCommand cw s = .fault .contention := by
  simp [runCommand, commandEvents, runEvents, guardedEvent, h]

/-! ### `ACC` over a list of words (R103) -/

theorem addedBytes_cons (cw : CommandWord) (cws : List CommandWord) :
    addedBytes (cw :: cws) = addedBytes [cw] ++ addedBytes cws :=
  List.filterMap_append (l := [cw])

theorem addedBytes_encode_csumAdd (b : Byte) : addedBytes [encode (.csumAdd b)] = [b] := by
  simp [addedBytes]

theorem addedBytes_singleton_eq_nil (h : ∀ b, decode cw ≠ .command (.csumAdd b)) : addedBytes [cw] = [] := by
  simp only [addedBytes, List.filterMap_eq_nil_iff, List.mem_singleton, forall_eq]
  split <;> simp_all

/-- Only CSUM_CLEAR and CSUM_ADD write `ACC`. -/
theorem commandResult_acc_of_ne (hclear : decode cw ≠ .command .csumClear)
    (hadd : ∀ b, decode cw ≠ .command (.csumAdd b)) (s : State) : (commandResult cw s).acc = s.acc := by
  by_cases hsa : ∃ a, decode cw = .command (.setAddress a)
  · obtain ⟨a, hd⟩ := hsa
    rw [commandResult_setAddress hd]
    rfl
  · obtain ⟨u, hu⟩ := acceptWord_next cw (presentedWord cw s)
    rw [commandResult_of_acceptWord (by simpa using hsa) hu]
    change u.acc = (presentedWord cw s).acc
    obtain ⟨_, -, rfl⟩ | ⟨i, hd, hi⟩ := acceptWord_cases hu
    · rfl
    · obtain ⟨-, -, -, -, hacc, -, -⟩ := exec_writers hi
      by_contra hne
      obtain rfl | ⟨b, rfl⟩ := hacc hne
      · exact hclear hd
      · exact hadd b hd

/-- A whole command other than CSUM_CLEAR adds to `ACC` the byte it adds, if any (R102). -/
theorem commandResult_acc (hclear : decode cw ≠ .command .csumClear) (s : State) :
    (commandResult cw s).acc = add16 s.acc (checksum (addedBytes [cw])) := by
  by_cases hadd : ∃ b, decode cw = .command (.csumAdd b)
  · obtain ⟨b, hd⟩ := hadd
    obtain rfl := decode_eq_command_iff.mp hd
    obtain ⟨hacc, -⟩ := commandResult_csumAdd b s
    rw [hacc, addedBytes_encode_csumAdd, checksum_cons]
    exact congrArg _ (BitVec.add_zero _).symm
  · have hadd : ∀ b, decode cw ≠ .command (.csumAdd b) := by simpa using hadd
    rw [commandResult_acc_of_ne hclear hadd, addedBytes_singleton_eq_nil hadd]
    exact (BitVec.add_zero _).symm

/-- Words without CSUM_CLEAR add the checksum of their bytes to `ACC`. -/
theorem commandsResult_acc (hclear : ∀ cw ∈ cws, decode cw ≠ .command .csumClear) (s : State) :
    (commandsResult cws s).acc = add16 s.acc (checksum (addedBytes cws)) := by
  induction cws generalizing s with
  | nil => exact (BitVec.add_zero _).symm
  | cons cw cws ih =>
    obtain ⟨hcw, hcws⟩ := List.forall_mem_cons.mp hclear
    rw [commandsResult_cons, ih hcws, commandResult_acc hcw, addedBytes_cons cw cws, checksum_append]
    exact BitVec.add_assoc _ _ _

/-! ### Registers that a list of words neither reads nor writes (R113)

`f` replaces some registers of the block; that words do not depend on them is that they commute with `f`. -/

/-- An accepted word commutes with the replacement if its meaning does. -/
theorem acceptWord_comm (hillegal : (f s).illegalCommand = f s.illegalCommand)
    (hexec : ∀ i, decode cw = .command i → exec i (f s) = mapNext f (exec i s)) :
    acceptWord cw (f s) = mapNext f (acceptWord cw s) := by
  cases hd : decode cw with
  | command i => rw [acceptWord_of_decode hd, acceptWord_of_decode hd, hexec i hd]
  | illegal c => simp [acceptWord, hd, hillegal]

/-- A whole command of one edge commutes with the replacement if its acceptance and the host's moves do. -/
theorem commandResult_comm (hne : ∀ a, decode cw ≠ .command (.setAddress a))
    (hpresent : presentedWord cw (f s) = f (presentedWord cw s))
    (haccept : acceptWord cw (f (presentedWord cw s)) = mapNext f (acceptWord cw (presentedWord cw s)))
    (hend : ∀ u, withdrawnWord ((f u).endEdge true) = f (withdrawnWord (u.endEdge true))) :
    commandResult cw (f s) = f (commandResult cw s) := by
  obtain ⟨u, hu⟩ := acceptWord_next cw (presentedWord cw s)
  have hfu : acceptWord cw (presentedWord cw (f s)) = .next (f u) := by rw [hpresent, haccept, hu, mapNext_next]
  rw [commandResult_of_acceptWord hne hu, commandResult_of_acceptWord hne hfu, hend]

theorem commandsResult_comm (h : ∀ cw ∈ cws, ∀ s, commandResult cw (f s) = f (commandResult cw s)) (s : State) :
    commandsResult cws (f s) = f (commandsResult cws s) := by
  induction cws generalizing s with
  | nil => rfl
  | cons cw cws ih =>
    obtain ⟨hcw, hcws⟩ := List.forall_mem_cons.mp h
    rw [commandsResult_cons, commandsResult_cons, hcw, ih hcws]

/-- Two runs from ready and safe states go the same way if each word's whole command commutes with the replacement. -/
theorem runCommands_comm (h : ∀ cw ∈ cws, ∀ s, commandResult cw (f s) = f (commandResult cw s))
    (hr : s.Ready) (hs : s.Safe) (hr' : (f s).Ready) (hs' : (f s).Safe) :
    runCommands cws (f s) = mapNext f (runCommands cws s) := by
  rw [runCommands_eq cws hr' hs', runCommands_eq cws hr hs, mapNext_next, commandsResult_comm h]

/-- A bus command neither reads nor writes `ACC`. -/
theorem exec_setAcc (hi : isChecksumCommand i = false) (s : State) (v : Word16) :
    exec i (s.setAcc v) = mapNext (State.setAcc · v) (exec i s) := by
  cases i with
  | setAddress | setData | getData | enableCs | disableCs => rfl
  | csumClear | csumAdd | csumRead => simp [isChecksumCommand] at hi

/-- Nor does a whole bus command, both phases of SET_ADDRESS among them, or an illegal word. -/
theorem commandResult_setAcc (hbus : ∀ i, decode cw = .command i → isChecksumCommand i = false) (s : State)
    (v : Word16) : commandResult cw (s.setAcc v) = (commandResult cw s).setAcc v := by
  by_cases hsa : ∃ a, decode cw = .command (.setAddress a)
  · obtain ⟨a, hd⟩ := hsa
    rw [commandResult_setAddress hd, commandResult_setAddress hd]
    rfl
  · exact commandResult_comm (f := (State.setAcc · v)) (by simpa using hsa) rfl
      (acceptWord_comm (f := (State.setAcc · v)) rfl fun i hd => exec_setAcc (hbus i hd) _ v) fun _ => rfl

/-- A checksum command neither reads nor writes a bus register. -/
theorem exec_withBus (hi : isChecksumCommand i = true) (s : State) (addr : Location) (drive : Bool) (shadow : Byte)
    (cs : Bool) (pend : Word16) :
    exec i (s.withBus addr drive shadow cs pend) =
      mapNext (State.withBus · addr drive shadow cs pend) (exec i s) := by
  cases i with
  | setAddress | setData | getData | enableCs | disableCs => simp [isChecksumCommand] at hi
  | csumClear | csumAdd | csumRead => rfl

/-- Nor does a whole checksum command or an illegal word. -/
theorem commandResult_withBus (hsum : ∀ i, decode cw = .command i → isChecksumCommand i = true) (s : State)
    (addr : Location) (drive : Bool) (shadow : Byte) (cs : Bool) (pend : Word16) :
    commandResult cw (s.withBus addr drive shadow cs pend) =
      (commandResult cw s).withBus addr drive shadow cs pend := by
  have hne : ∀ a, decode cw ≠ .command (.setAddress a) := fun a hd => Bool.false_ne_true (hsum _ hd)
  exact commandResult_comm (f := (State.withBus · addr drive shadow cs pend)) hne rfl
    (acceptWord_comm (f := (State.withBus · addr drive shadow cs pend)) rfl
      fun i hd => exec_withBus (hsum i hd) _ addr drive shadow cs pend)
    fun _ => rfl

end Sys2Proof.Machine
end

section
/-! The statements about the checksum (spec/40_checksum.md). -/

namespace Sys2Proof.Machine

/-- Settles O43. -/
theorem checksumIsTheSumModulo : Obligations.ChecksumIsTheSumModulo :=
  ⟨fun _ => BitVec.toNat_ofNat _ 16, rfl⟩

/-- Settles O18. -/
theorem csumClearResult : Obligations.CsumClearResult := exec_csumClear

/-- Settles O19: the 16-bit sum is the exact sum of the two numbers, reduced. -/
theorem csumAddResult : Obligations.CsumAddResult := by
  intro b s
  have hsum : add16 s.acc (zext16 b) = BitVec.ofNat 16 ((s.acc.toNat + b.toNat) % 65536) := by
    apply BitVec.eq_of_toNat_eq
    simp [add16, zext16]
  rw [← hsum]
  exact exec_csumAdd b s

/-- Settles O20. -/
theorem csumReadResult : Obligations.CsumReadResult := exec_csumRead

/-- Settles O44. -/
theorem checksumIgnoresOrder : Obligations.ChecksumIgnoresOrder := fun _ _ => checksum_eq_of_perm

/-- Settles O45. -/
theorem checksumOfConcatenation : Obligations.ChecksumOfConcatenation := checksum_append

/-- Settles O46: the byte order only permutes the header's bytes. -/
theorem frameChecksumIgnoresWireEndian : Obligations.FrameChecksumIgnoresWireEndian := by
  intro e h p
  refine ⟨?_, (checksum_append _ _).symm⟩
  rw [wireFrameChecksum, frameChecksum, frameChecksum, checksum_eq_of_perm (headerBytes_perm Config.wireEndian e h)]

/-- Settles O47: the words add the checksum of their bytes to `ACC`, which is 0 before the first of them. -/
theorem accHoldsTheChecksumOfTheAddedBytes : Obligations.AccHoldsTheChecksumOfTheAddedBytes := by
  intro cws s hr hs hclear
  have hfrom : ∀ t : State, t.acc = 0x0000#16 → (commandsResult cws t).acc = checksum (addedBytes cws) := by
    intro t ht
    rw [commandsResult_acc hclear, ht, add16, BitVec.zero_add]
  obtain ⟨hcleared, -⟩ := commandResult_csumClear s
  exact ⟨⟨_, runCommands_eq _ hr hs, hfrom _ hcleared⟩, fun hacc => ⟨_, runCommands_eq _ hr hs, hfrom s hacc⟩⟩

/-- Settles O48: whole bus commands commute with a write of `ACC`; in contention both runs are the same fault. -/
theorem busCommandsIgnoreAcc : Obligations.BusCommandsIgnoreAcc := by
  intro cws s v hr hbus
  change runCommands cws (s.setAcc v) = mapNext (State.setAcc · v) (runCommands cws s)
  by_cases hs : s.Safe
  · exact runCommands_comm (fun cw hcw s => commandResult_setAcc (hbus cw hcw) s v) hr hs hr hs
  · have hc : s.contended = true := by simpa [State.Safe, State.contended] using hs
    have hc' : (s.setAcc v).contended = true := hc
    cases cws with
    | nil => rfl
    | cons cw cws => simp [runCommands, runCommand_of_contended, hc, hc']

/-- Settles O49: whole checksum commands and illegal words commute with a write of the bus registers. -/
theorem checksumCommandsIgnoreTheBus : Obligations.ChecksumCommandsIgnoreTheBus := by
  intro cws s addr drive shadow cs pend hr hs hs' hsum
  exact runCommands_comm (f := (State.withBus · addr drive shadow cs pend))
    (fun cw hcw s => commandResult_withBus (hsum cw hcw) s addr drive shadow cs pend) hr hs hr hs'

end Sys2Proof.Machine
end

section
/-! The bus commands and the control FSM (spec/41_cartridge_bus.md): phase B of SET_ADDRESS, the read-back multiplexer,
the transition table of one word, what host lines leave, and that no event reads the events to come. -/

namespace Sys2Proof.Machine

variable {s t u : State} {i : Instr} {cw : CommandWord}

/-! ### The location of an argument (R121), and the edges that accept no word (R131, 60 R184) -/

theorem maskAddress_eq_setWidth (a : Word16) : maskAddress a = a.setWidth 12 :=
  BitVec.eq_of_toNat_eq (by rw [maskAddress_toNat, BitVec.toNat_setWidth])

/-- The edge of phase B, whatever stands on the command port (R131, R132). -/
theorem clockEdge_of_saB (hrst : s.rst = false) (hphase : s.phase = .saB) :
    clockEdge s = .next (s.phaseB.endEdge false) := by
  simp [clockEdge, hrst, hphase]

/-- The edge with nothing presented to a block that is ready (60 R184). -/
theorem clockEdge_of_not_presented (hrst : s.rst = false) (hphase : s.phase = .idle) (hvalid : s.cmdValid = false) :
    clockEdge s = .next (s.noResponse.endEdge false) := by
  simp [clockEdge, hrst, hphase, hvalid]

/-! ### The read-back multiplexer (R146) -/

theorem readValue_of_output (h : s.drive = true) : s.readValue = s.shadow := by
  simp [State.readValue, h]

theorem readValue_of_input (h : s.drive = false) : s.readValue = Config.cartDIn s.edge s.cartPins := by
  simp [State.readValue, State.sampleDataLines, h]

theorem cartPins_of_input (h : s.drive = false) :
    s.cartPins = { a := s.addr, dOut := s.shadow, dOe := false, dPull := s.shadow, cs := s.cs } := by
  simp [State.cartPins, State.cartDPull, h]

/-- The pins show the bus registers (10 R31). -/
theorem registers_of_cartPins {p : CartPins} (h : s.cartPins = p) :
    s.addr = p.a ∧ s.drive = p.dOe ∧ s.shadow = p.dOut ∧ s.cs = p.cs := by
  subst h
  exact ⟨rfl, rfl, rfl, rfl⟩

/-! ### The transition table for one word (R125) -/

theorem fsm_of_setAddress {a : Word16} (hdrive : s.drive = driveOf a) (hcs : s.cs = false) (f : FsmState) :
    s.fsm = fsmAfter (.setAddress a) f := by
  rw [State.fsm, hdrive, hcs, driveOf, fsmAfter]
  cases modeOf a <;> rfl

/-- ENABLE_CS: the row of the table, by the four values of the pair (`DRIVE`, `CS`). -/
theorem fsm_enableCs (s : State) :
    (s.setCs (!s.drive)).fsm = fsmAfter .enableCs s.fsm ∧ enableStatus s.drive = statusAfter .enableCs s.fsm := by
  cases hd : s.drive <;> cases hc : s.cs <;> simp [State.fsm, hd, hc, fsmAfter, statusAfter, enableStatus]

/-- DISABLE_CS: the row of the table; its status is always OK. -/
theorem fsm_disableCs (s : State) : (s.setCs false).fsm = fsmAfter .disableCs s.fsm := by
  cases hd : s.drive <;> cases hc : s.cs <;> simp [State.fsm, hd, hc, fsmAfter]

/-- A command of one edge goes by the table; all but ENABLE_CS and DISABLE_CS leave `DRIVE` and `CS`. -/
theorem exec_fsm (hne : ∀ a, i ≠ .setAddress a) (h : exec i s = .next u) :
    u.fsm = fsmAfter i s.fsm ∧ u.rspStatus = statusAfter i s.fsm := by
  cases i with
  | setAddress a => exact absurd rfl (hne a)
  | enableCs =>
    injection h with h
    subst h
    exact fsm_enableCs s
  | disableCs =>
    injection h with h
    subst h
    exact ⟨fsm_disableCs s, rfl⟩
  | setData | getData | csumClear | csumAdd | csumRead =>
    injection h with h
    subst h
    exact ⟨rfl, rfl⟩

/-- So does every accepted word of one edge; an illegal one leaves the FSM state. -/
theorem acceptWord_fsm (hne : ∀ a, decode cw ≠ .command (.setAddress a)) (h : acceptWord cw s = .next u) :
    u.fsm = fsmAfterWord cw s.fsm ∧ u.rspStatus = statusAfterWord cw s.fsm := by
  obtain ⟨c, hd, rfl⟩ | ⟨i, hd, hi⟩ := acceptWord_cases h
  · rw [fsmAfterWord, statusAfterWord, hd]
    exact ⟨rfl, rfl⟩
  · rw [fsmAfterWord, statusAfterWord, hd]
    exact exec_fsm (by simpa [hd] using hne) hi

/-- A whole command ends with its response, in the FSM state and with the status of the table. -/
theorem commandResult_fsm (cw : CommandWord) (s : State) :
    (commandResult cw s).rspValid = true ∧ (commandResult cw s).fsm = fsmAfterWord cw s.fsm ∧
      (commandResult cw s).rspStatus = statusAfterWord cw s.fsm := by
  by_cases hsa : ∃ a, decode cw = .command (.setAddress a)
  · obtain ⟨a, hd⟩ := hsa
    rw [commandResult_setAddress hd, fsmAfterWord, statusAfterWord, hd]
    exact ⟨rfl, fsm_of_setAddress rfl rfl _, rfl⟩
  · have hne : ∀ a, decode cw ≠ .command (.setAddress a) := by simpa using hsa
    obtain ⟨u, hu⟩ := acceptWord_next cw (presentedWord cw s)
    rw [commandResult_of_acceptWord hne hu]
    obtain ⟨hfsm, hstatus⟩ := acceptWord_fsm hne hu
    exact ⟨(acceptWord_rspValid hu).mpr hne, hfsm, hstatus⟩

/-! ### Whole bus commands and idle cycles: the lines they leave, the edges they take -/

theorem commandResult_encode_setAddress (a : Word16) (s : State) :
    (commandResult (encode (.setAddress a)) s).cartPins =
        { a := a.setWidth 12, dOut := s.shadow, dOe := driveOf a, dPull := if driveOf a then 0x00#8 else s.shadow,
          cs := false } ∧
      (commandResult (encode (.setAddress a)) s).edge = s.edge + 2 := by
  rw [commandResult_setAddress (decode_encode _), ← maskAddress_eq_setWidth]
  exact ⟨rfl, rfl⟩

theorem commandResult_encode_setData (v : Byte) (s : State) :
    (commandResult (encode (.setData v)) s).cartPins =
      { s.cartPins with dOut := v, dPull := if s.drive then 0x00#8 else v } := by
  rw [commandResult_encode (by simp) (exec_setData v _)]
  rfl

/-- GET_DATA reads at its own edge and keeps the pins (R145). -/
theorem commandResult_encode_getData (s : State) :
    (commandResult (encode .getData) s).response = some ⟨statusOk, zext16 s.readValue⟩ ∧
      (commandResult (encode .getData) s).cartPins = s.cartPins ∧
      (commandResult (encode .getData) s).edge = s.edge + 1 := by
  rw [commandResult_encode (by simp) (exec_getData _)]
  exact ⟨rfl, rfl, rfl⟩

/-- ENABLE_CS asserts chip-select by `DRIVE` (R150), and the access time runs from its edge (70 R201). -/
theorem commandResult_encode_enableCs (s : State) :
    (commandResult (encode .enableCs) s).cartPins = { s.cartPins with cs := !s.drive } ∧
      (commandResult (encode .enableCs) s).edge = s.edge + 1 ∧
      (commandResult (encode .enableCs) s).accessFrom = s.edge := by
  rw [commandResult_encode (by simp) (exec_enableCs _)]
  exact ⟨rfl, rfl, rfl⟩

theorem idleResult_frame (n : Nat) (s : State) :
    (idleResult n s).cartPins = s.cartPins ∧ (idleResult n s).edge = s.edge + n ∧
      (idleResult n s).accessFrom = s.accessFrom := by
  cases n <;> exact ⟨rfl, rfl, rfl⟩

/-! ### Host lines in a row -/

/-- What one line leaves. -/
def lineResult : HostLine → State → State
  | .word cw, s => commandResult cw s
  | .idle n, s => idleResult n s

/-- What lines leave, in order. -/
def linesResult (ls : List HostLine) (s : State) : State := ls.foldl (fun s l => lineResult l s) s

theorem linesResult_append (ls ms : List HostLine) (s : State) :
    linesResult (ls ++ ms) s = linesResult ms (linesResult ls s) := List.foldl_append

theorem runEvents_lineEvents (l : HostLine) (es : List PortEvent) (hr : s.Ready) (hs : s.Safe) :
    runEvents (lineEvents l ++ es) s = runEvents es (lineResult l s) :=
  match l with
  | .word cw => runEvents_commandEvents cw es hr hs
  | .idle n => runEvents_idleEvents n es hr hs

theorem lineResult_ready (l : HostLine) (hr : s.Ready) (hs : s.Safe) :
    (lineResult l s).Ready ∧ (lineResult l s).Safe :=
  match l with
  | .word cw => commandResult_ready cw hr hs
  | .idle n => idleResult_ready n hr hs

/-- From a ready and safe state lines run to their end. -/
theorem runEvents_linesEvents (ls : List HostLine) (hr : s.Ready) (hs : s.Safe) :
    runEvents (linesEvents ls) s = .next (linesResult ls s) := by
  induction ls generalizing s with
  | nil => rfl
  | cons l ls ih =>
    obtain ⟨hr', hs'⟩ := lineResult_ready l hr hs
    rw [linesEvents, List.flatMap_cons, runEvents_lineEvents l _ hr hs]
    exact ih hr' hs'

/-! ### The read protocol (R155) -/

/-- The lines of `READ` in input mode before the GET_DATA. -/
def selectLines (a : Word16) : List HostLine :=
  [commandLine (.setAddress a), commandLine .enableCs, .idle (Config.tAccCycles - 1)]

theorem readLines_of_input {a : Word16} (h : Config.romBoundary ≤ a.toNat) :
    readLines a = selectLines a ++ [commandLine .getData] := by
  rw [readLines, modeOf_eq_input.mpr h]
  rfl

theorem readLines_of_output {a : Word16} (h : a.toNat < Config.romBoundary) :
    readLines a = [commandLine (.setAddress a), commandLine .getData] := by
  rw [readLines, modeOf_eq_output.mpr h]

/-- At or above the boundary the cartridge is then selected at the location, the ENABLE_CS `T_ACC_CYCLES` edges ago. -/
theorem linesResult_selectLines {a : Word16} (h : Config.romBoundary ≤ a.toNat) (s : State) :
    (linesResult (selectLines a) s).cartPins =
        { a := a.setWidth 12, dOut := s.shadow, dOe := false, dPull := s.shadow, cs := true } ∧
      (linesResult (selectLines a) s).edge = s.edge + 2 + Config.tAccCycles ∧
      (linesResult (selectLines a) s).accessFrom = s.edge + 2 := by
  have hdrive : driveOf a = false := (driveOf_eq_false_iff a).mpr h
  obtain ⟨hpins₁, hedge₁⟩ := commandResult_encode_setAddress a s
  obtain ⟨hpins₂, hedge₂, hfrom₂⟩ := commandResult_encode_enableCs (commandResult (encode (.setAddress a)) s)
  obtain ⟨hpins₃, hedge₃, hfrom₃⟩ := idleResult_frame (Config.tAccCycles - 1)
    (commandResult (encode .enableCs) (commandResult (encode (.setAddress a)) s))
  obtain ⟨-, hdrive₁, -, -⟩ := registers_of_cartPins hpins₁
  have hacc : Config.tAccCycles = Config.tAccCycles - 1 + 1 := rfl
  refine ⟨hpins₃.trans ?_, hedge₃.trans ?_, hfrom₃.trans (hfrom₂.trans hedge₁)⟩
  · rw [hpins₂, hpins₁, hdrive₁, hdrive]
    rfl
  · omega

/-- `READ` from the boundary on: the GET_DATA samples the selected cartridge, its access time over. -/
theorem runEvents_readLines_of_input {a : Word16} (h : Config.romBoundary ≤ a.toNat) (hr : s.Ready) (hs : s.Safe) :
    ∃ t, runEvents (linesEvents (readLines a)) s = .next t ∧
      t.response = some ⟨statusOk, zext16 (Config.cartDIn (s.edge + 2 + Config.tAccCycles)
        { a := a.setWidth 12, dOut := s.shadow, dOe := false, dPull := s.shadow, cs := true })⟩ ∧
      t.cartPins = { a := a.setWidth 12, dOut := s.shadow, dOe := false, dPull := s.shadow, cs := true } ∧
      t.edge = s.edge + 3 + Config.tAccCycles := by
  obtain ⟨hpins, hedge, -⟩ := linesResult_selectLines h s
  obtain ⟨-, hdrive, -, -⟩ := registers_of_cartPins hpins
  obtain ⟨hrsp, hpins', hedge'⟩ := commandResult_encode_getData (linesResult (selectLines a) s)
  refine ⟨_, ?_, ?_, hpins'.trans hpins, hedge'.trans ?_⟩
  · rw [readLines_of_input h, runEvents_linesEvents _ hr hs, linesResult_append]
    rfl
  · rw [hrsp, readValue_of_input hdrive, hpins, hedge]
  · omega

/-- `READ` below the boundary: the GET_DATA reads `SHADOW` back (R145). -/
theorem runEvents_readLines_of_output {a : Word16} (h : a.toNat < Config.romBoundary) (hr : s.Ready) (hs : s.Safe) :
    ∃ t, runEvents (linesEvents (readLines a)) s = .next t ∧ t.response = some ⟨statusOk, zext16 s.shadow⟩ ∧
      t.cartPins = { a := a.setWidth 12, dOut := s.shadow, dOe := true, dPull := 0x00#8, cs := false } := by
  have hdrive : driveOf a = true := (driveOf_eq_true_iff a).mpr h
  obtain ⟨hpins, -⟩ := commandResult_encode_setAddress a s
  rw [hdrive] at hpins
  obtain ⟨-, hdrive', hshadow, -⟩ := registers_of_cartPins hpins
  obtain ⟨hrsp, hpins', -⟩ := commandResult_encode_getData (commandResult (encode (.setAddress a)) s)
  rw [readLines_of_output h]
  refine ⟨_, runEvents_linesEvents _ hr hs, hrsp.trans ?_, hpins'.trans hpins⟩
  rw [readValue_of_output hdrive', hshadow]

/-! ### No event reads the events to come -/

theorem exec_withEvents (i : Instr) (s : State) (es : List PortEvent) :
    exec i (s.withEvents es) = mapNext (State.withEvents · es) (exec i s) := by
  cases i <;> rfl

theorem unreadyEdge_withEvents (s : State) (es : List PortEvent) :
    (s.withEvents es).unreadyEdge = s.unreadyEdge.withEvents es := by
  rw [State.unreadyEdge, State.unreadyEdge, apply_ite (State.withEvents · es)]
  rfl

theorem clockEdge_withEvents (s : State) (es : List PortEvent) :
    clockEdge (s.withEvents es) = mapNext (State.withEvents · es) (clockEdge s) := by
  have haccept : acceptWord s.portWord (s.withEvents es) = mapNext (State.withEvents · es) (acceptWord s.portWord s) :=
    acceptWord_comm (f := (State.withEvents · es)) rfl fun i _ => exec_withEvents i s es
  by_cases hready : s.cmdReady = true
  · obtain ⟨hrst, hphase⟩ : s.rst = false ∧ s.phase = .idle := by simpa [State.cmdReady] using hready
    cases hv : s.cmdValid with
    | true =>
      rw [clockEdge_of_presented hrst hphase hv, clockEdge_of_presented (s := s.withEvents es) hrst hphase hv,
        mapNext_mapNext]
      exact (congrArg _ haccept).trans (mapNext_mapNext _ _ _)
    | false =>
      rw [clockEdge_of_not_presented hrst hphase hv, clockEdge_of_not_presented (s := s.withEvents es) hrst hphase hv]
      rfl
  · have hready : s.cmdReady = false := by simpa using hready
    rw [clockEdge_of_not_ready hready, clockEdge_of_not_ready (s := s.withEvents es) hready, unreadyEdge_withEvents]
    rfl

theorem handleEvent_withEvents (e : PortEvent) (s : State) (es : List PortEvent) :
    handleEvent e (s.withEvents es) = mapNext (State.withEvents · es) (handleEvent e s) := by
  cases e with
  | clkRise => exact clockEdge_withEvents s es
  | rstRise | rstFall => rfl
  | present op arg =>
    rw [handleEvent, handleEvent, presentAt_eq, presentAt_eq, apply_ite (mapNext _)]
    rfl
  | withdraw =>
    rw [handleEvent, handleEvent, withdrawAt_eq, withdrawAt_eq, apply_ite (mapNext _)]
    rfl

theorem guardedEvent_withEvents (e : PortEvent) (s : State) (es : List PortEvent) :
    guardedEvent e (s.withEvents es) = mapNext (State.withEvents · es) (guardedEvent e s) := by
  rw [guardedEvent, guardedEvent, handleEvent_withEvents, apply_ite (mapNext _)]
  rfl

theorem runEvents_withEvents (evs : List PortEvent) (s : State) (es : List PortEvent) :
    runEvents evs (s.withEvents es) = mapNext (State.withEvents · es) (runEvents evs s) := by
  induction evs generalizing s with
  | nil => rfl
  | cons e evs ih =>
    rw [runEvents, runEvents, guardedEvent_withEvents]
    cases guardedEvent e s with
    | next u => exact ih u
    | fault | refused => rfl

/-- An event leaves the events to come: it commutes with writing them as they are. -/
theorem guardedEvent_events {e : PortEvent} (h : guardedEvent e s = .next u) : u.events = s.events := by
  have hself : guardedEvent e (s.withEvents s.events) = mapNext (State.withEvents · s.events) (guardedEvent e s) :=
    guardedEvent_withEvents e s s.events
  have hsame : s.withEvents s.events = s := rfl
  rw [hsame, h, mapNext_next] at hself
  injection hself with hself
  rw [hself]
  rfl

/-- A run is its first step and then the rest. -/
theorem core_run_succ_of_step {M : Host.Core} {n : Nat} {s : M.State} {o : Host.Outcome M.State M.Fault M.Refusal} :
    M.step s = o → M.run (n + 1) s =
      match o with
      | .next t => M.run n t
      | .fault r => .fault r
      | .refused r => .refused r := by
  rintro rfl
  rfl

/-- The host's run of the machine, at the model's own types. -/
def runSteps (n : Nat) (s : State) : Host.Outcome State Fault Refusal := Host.Core.run Sys2Proof.core n s

theorem runSteps_succ (n : Nat) (s : State) : runSteps (n + 1) s = bindNext (step s) (runSteps n) := by
  cases h : step s <;> exact core_run_succ_of_step (M := Sys2Proof.core) h

/-- The first step, when the events to come are known. -/
theorem step_of_events {e : PortEvent} {es : List PortEvent} (h : s.events = e :: es) :
    step s = mapNext (State.withEvents · es) (guardedEvent e s) := by
  have hnext : s.nextEvent = e := by rw [State.nextEvent, h, List.headD_cons]
  rw [step, hnext]
  cases hu : guardedEvent e s with
  | next u =>
    rw [mapNext_next, mapNext_next, State.popEvent, guardedEvent_events hu, h]
    rfl
  | fault | refused => rfl

/-- As many steps as events are those events, with the rest still to come. -/
theorem runSteps_of_events (evs rest : List PortEvent) (hs : s.events = evs ++ rest) :
    runSteps evs.length s = mapNext (State.withEvents · rest) (runEvents evs s) := by
  induction evs generalizing s with
  | nil => exact congrArg (fun es => Host.Outcome.next (s.withEvents es)) hs
  | cons e evs ih =>
    rw [List.length_cons, runSteps_succ, step_of_events hs, runEvents]
    cases guardedEvent e s with
    | next u =>
      rw [mapNext_next, bindNext_next, bindNext_next, ih rfl, runEvents_withEvents, mapNext_mapNext]
      rfl
    | fault | refused => rfl

end Sys2Proof.Machine
end

section
/-! The statements about the cartridge bus (spec/41_cartridge_bus.md). -/

namespace Sys2Proof.Machine

/-- Settles O30: `State.Inv` is preserved by every event. -/
theorem stepKeepsTheSafetyInvariant : Obligations.StepKeepsTheSafetyInvariant :=
  fun _ _ => step_inv

/-- Settles O12: phase A leaves the state whose next edge is phase B. -/
theorem setAddressCompletesAtTheNextEdge : Obligations.SetAddressCompletesAtTheNextEdge := by
  intro a s hrst
  have hdrive : driveOf a = if a.toNat ≥ Config.romBoundary then false else true := by
    rw [driveOf, modeOf]
    split_ifs <;> rfl
  exact ⟨_, _, exec_setAddress a s, clockEdge_of_saB hrst rfl, rfl, hdrive, maskAddress_eq_setWidth a, rfl, rfl, rfl,
    rfl, rfl, rfl⟩

/-- Settles O34: the two phases of SET_ADDRESS, or the one edge of any other word, end in the table's row. -/
theorem fsmTransitionTable : Obligations.FsmTransitionTable := by
  intro cw s hr hs
  obtain ⟨hr', hs'⟩ := commandResult_ready cw hr hs
  exact ⟨_, runCommand_eq cw hr hs, hr', hs', commandResult_fsm cw s⟩

/-- Settles O51: in input mode the GET_DATA follows the selection and its idle cycles; in output mode it follows the
SET_ADDRESS. -/
theorem readProtocolAnswersTheByte : Obligations.ReadProtocolAnswersTheByte := by
  intro a s hr hs
  refine ⟨fun ha => ?_, fun ha => ⟨_, runEvents_linesEvents (selectLines a) hr hs, ?_⟩, fun ha => ?_⟩
  · obtain ⟨t, hrun, hrsp, hpins, hedge⟩ := runEvents_readLines_of_input ha hr hs
    obtain ⟨haddr, hdrive, -, hcs⟩ := registers_of_cartPins hpins
    exact ⟨t, hrun, hrsp, by simp [State.fsm, hdrive, hcs], haddr, hedge⟩
  · obtain ⟨hpins, hedge, hfrom⟩ := linesResult_selectLines ha s
    obtain ⟨-, hdrive, -, hcs⟩ := registers_of_cartPins hpins
    refine ⟨hdrive, hcs, ?_⟩
    rw [hedge, hfrom, Nat.add_sub_cancel_left]
  · obtain ⟨t, hrun, hrsp, hpins⟩ := runEvents_readLines_of_output ha hr hs
    obtain ⟨haddr, hdrive, -, hcs⟩ := registers_of_cartPins hpins
    exact ⟨t, hrun, hrsp, by simp [State.fsm, hdrive, hcs], haddr⟩

/-- Settles O52: the pins after SET_ADDRESS, with the byte on the data lines. -/
theorem emulateDrivesTheByte : Obligations.EmulateDrivesTheByte := by
  intro a v s hr hs ha
  have hdrive : driveOf a = true := (driveOf_eq_true_iff a).mpr ha
  obtain ⟨hpins, -⟩ := commandResult_encode_setAddress a s
  obtain ⟨-, hdrive', -, -⟩ := registers_of_cartPins hpins
  refine ⟨_, runEvents_linesEvents _ hr hs, (commandResult_encode_setData v (commandResult _ s)).trans ?_⟩
  rw [hpins, hdrive', hdrive]
  rfl

/-- Settles O57: a step takes the first event, and the events do not read those to come. -/
theorem stepsFollowTheEvents : Obligations.StepsFollowTheEvents :=
  fun evs rest _ => runSteps_of_events evs rest

/-- Settles O10. -/
theorem setAddressPhaseA : Obligations.SetAddressPhaseA := by
  intro a s
  refine ⟨exec_setAddress a s, fun t ht => ?_⟩
  rw [exec_setAddress] at ht
  injection ht with ht
  subst ht
  exact ⟨by simp [State.cmdReady], rfl⟩

/-- Settles O11. -/
theorem setAddressPhaseB : Obligations.SetAddressPhaseB := by
  intro s hc hclk hrst hphase
  have hstep : step s = .next (s.phaseB.endEdge false).popEvent := by
    rw [step_of_not_contended hc, hclk, handleEvent, clockEdge_of_saB hrst hphase, mapNext_next]
  exact ⟨_, hstep, driveOf_eq s.pend, maskAddress_eq_setWidth s.pend, rfl, rfl, rfl, rfl, rfl, rfl, rfl, rfl⟩

/-- Settles O13. -/
theorem setDataResult : Obligations.SetDataResult := by
  intro v s
  refine ⟨exec_setData v s, fun t ht => ?_⟩
  rw [exec_setData] at ht
  injection ht with ht
  subst ht
  rfl

/-- Settles O14: the byte is the read-back multiplexer's. -/
theorem getDataResult : Obligations.GetDataResult :=
  fun s => ⟨s.readValue, exec_getData s, readValue_of_output⟩

/-- Settles O15. -/
theorem getDataSamplesTheLinesInInputMode : Obligations.GetDataSamplesTheLinesInInputMode := by
  intro s h
  rw [exec_getData, readValue_of_input h, cartPins_of_input h]
  rfl

/-- Settles O16. -/
theorem enableCsResult : Obligations.EnableCsResult :=
  fun s => ⟨_, exec_enableCs s, rfl, rfl, rfl, rfl, rfl, rfl, rfl, rfl, rfl, rfl⟩

/-- Settles O17. -/
theorem disableCsResult : Obligations.DisableCsResult := exec_disableCs

/-- Settles O31: `DRIVE = 0` and PHASE is IDLE after reset. -/
theorem safetyInvariantAtReset : Obligations.SafetyInvariantAtReset :=
  ⟨⟨fun h => Bool.false_ne_true h.1, nofun⟩, rfl⟩

end Sys2Proof.Machine
end

section
/-! Illegal words (spec/60_exceptions.md R170, R171), the edge of a ready block, and the step that is a fault (R174). -/

namespace Sys2Proof

variable {op : BitVec 4} {arg : Word16}

/-- R82: no command has an unassigned op. -/
theorem opOf_not_unassigned (i : Instr) : opOf i ∉ [0x0#4, 0x6#4, 0x7#4, 0xB#4, 0xC#4, 0xD#4, 0xE#4, 0xF#4] := by
  cases i <;> simp [opOf]

/-- R83: a command with a byte operand has no reserved bit set. -/
theorem argOf_high_eq_zero {i : Instr} (h : opOf i ∈ [0x2#4, 0x9#4]) : (argOf i).extractLsb' 8 8 = 0#8 := by
  cases i with
  | setData b | csumAdd b => exact (byteOperand_setWidth b).1
  | setAddress | getData | enableCs | disableCs | csumClear | csumRead => simp [opOf] at h

/-- R83: a command without operand has the argument 0. -/
theorem argOf_eq_zero {i : Instr} (h : opOf i ∈ [0x3#4, 0x4#4, 0x5#4, 0x8#4, 0xA#4]) : argOf i = 0#16 := by
  cases i with
  | getData | enableCs | disableCs | csumClear | csumRead => rfl
  | setAddress | setData | csumAdd => simp [opOf] at h

/-- Fields that are no command's own decode as illegal (R81). -/
theorem decodeFields_eq_illegal (h : ∀ i, opOf i = op → argOf i ≠ arg) : ∃ c, decodeFields op arg = .illegal c := by
  cases hd : decodeFields op arg with
  | illegal c => exact ⟨c, rfl⟩
  | command i =>
    obtain ⟨hop, harg⟩ := fields_of_decodeFields hd
    exact absurd harg (h i hop)

namespace Machine

variable {s : State}

/-- The edge that accepts an illegal word (R171). -/
theorem acceptWord_of_illegal {cw : CommandWord} (h : ∃ c, decode cw = .illegal c) (s : State) :
    acceptWord cw s = .next s.illegalCommand := by
  obtain ⟨c, hc⟩ := h
  rw [acceptWord, hc]

/-- The block is ready only outside reset (30 R73). -/
theorem State.EdgeReady.rst_eq_false (h : s.EdgeReady) : s.rst = false := by
  obtain ⟨-, -, hready⟩ := h
  simpa using (Bool.and_eq_true_iff.mp hready).1

/-- The next step of a block that is ready is a rising edge. -/
theorem State.EdgeReady.step_eq (h : s.EdgeReady) : step s = mapNext State.popEvent (clockEdge s) := by
  obtain ⟨hc, hclk, -⟩ := h
  rw [step_of_not_contended hc, hclk, handleEvent]

/-- The step that accepts an illegal word. -/
theorem State.EdgeReady.step_of_illegal (h : s.EdgeReady) (hvalid : s.cmdValid = true)
    (hd : ∃ c, decode s.portWord = .illegal c) : step s = .next (s.illegalCommand.endEdge true).popEvent := by
  rw [h.step_eq, clockEdge_of_presented h.rst_eq_false h.phase_idle hvalid, acceptWord_of_illegal hd, mapNext_next,
    mapNext_next]

/-- The step of a block that is ready, with nothing presented (R184). -/
theorem State.EdgeReady.step_of_not_presented (h : s.EdgeReady) (hvalid : s.cmdValid = false) :
    step s = .next (s.noResponse.endEdge false).popEvent := by
  rw [h.step_eq, clockEdge_of_not_presented h.rst_eq_false h.phase_idle hvalid, mapNext_next]

/-- A state in contention is a fault at every event (R174). -/
theorem step_of_contended (h : s.contended = true) : step s = .fault .contention := by
  rw [step, guardedEvent, if_pos h, mapNext_fault]

end Machine

end Sys2Proof
end

section
/-! The statements about abnormal outcomes and quiet edges (spec/60_exceptions.md). -/

namespace Sys2Proof.Machine

/-- Settles O23: a command with the op and argument on the port would have an assigned op and no reserved bit set. -/
theorem illegalWordOnlyAnswersIllegal : Obligations.IllegalWordOnlyAnswersIllegal := by
  intro s hready hvalid hfields
  have hd : ∃ c, decode s.portWord = .illegal c := by
    rw [State.portWord, decode_commandWord]
    refine decodeFields_eq_illegal fun i hop harg => ?_
    rw [← hop, ← harg] at hfields
    obtain hun | ⟨hbyte, hne⟩ | ⟨hplain, hne⟩ := hfields
    · exact opOf_not_unassigned i hun
    · exact hne (argOf_high_eq_zero hbyte)
    · exact hne (argOf_eq_zero hplain)
  exact ⟨_, hready.step_of_illegal hvalid hd, rfl, rfl, rfl, rfl, rfl, rfl, rfl, rfl, rfl, rfl⟩

/-- Settles O27: a contended state is the fault before any event, and a step from a safe state is none. -/
theorem contentionIsTheOnlyFault : Obligations.ContentionIsTheOnlyFault := by
  intro s r
  constructor
  · intro h
    have hunsafe : s.drive = true ∧ s.cs = true := by
      by_contra hs
      exact step_ne_fault hs r h
    rw [step_of_contended (Bool.and_eq_true_iff.mpr hunsafe)] at h
    injection h with h
    exact ⟨hunsafe, h.symm⟩
  · rintro ⟨hunsafe, rfl⟩
    exact step_of_contended (Bool.and_eq_true_iff.mpr hunsafe)

/-- Settles O24. -/
theorem idleEdgeOnlyEndsTheResponse : Obligations.IdleEdgeOnlyEndsTheResponse := by
  intro s hready hvalid
  exact ⟨_, hready.step_of_not_presented hvalid, rfl, rfl, rfl, rfl, rfl, rfl, rfl, rfl, rfl, rfl, rfl⟩

end Sys2Proof.Machine
end

section
/-! Reset and the hazards (spec/70_reset_and_hazards.md): what holds under `rst`, which event moves `DRIVE` and `CS`,
and what a host program's run ends with. -/

namespace Sys2Proof.Machine

variable {s t u : State} {i : Instr} {r : HostRun}

/-! ### Under `rst` (R190, R191) -/

/-- An accepted word leaves the input port `rst` and the direction (10 R22, 30 R70). -/
theorem acceptWord_rst_drive {cw : CommandWord} (h : acceptWord cw s = .next u) :
    u.rst = s.rst ∧ u.drive = s.drive := by
  obtain ⟨_, -, rfl⟩ | ⟨i, -, hi⟩ := acceptWord_cases h
  · exact ⟨rfl, rfl⟩
  · exact ⟨(exec_ports hi).1, (exec_writers hi).2.1⟩

/-- No edge writes the input port `rst` (30 R70). -/
theorem clockEdge_rst (h : clockEdge s = .next t) : t.rst = s.rst := by
  obtain ⟨-, rfl⟩ | ⟨-, -, rfl⟩ | ⟨-, -, -, rfl⟩ | ⟨-, -, -, u, hu, rfl⟩ := clockEdge_cases h
  · rfl
  · rfl
  · rfl
  · exact (acceptWord_rst_drive hu).1

/-- The edge under reset (30 R71). -/
theorem clockEdge_of_rst (h : s.rst = true) : clockEdge s = .next (s.resetRegisters.endEdge false) := by
  simp [clockEdge, h]

theorem atReset_resetRegisters (s : State) : s.resetRegisters.AtReset :=
  ⟨rfl, rfl, rfl, rfl, rfl, rfl, rfl, rfl, rfl⟩

/-- Every event after which `rst = 1` leaves the reset values, if they held while `rst` was 1 before it. -/
theorem handleEvent_atReset {e : PortEvent} (hs : s.rst = true → s.AtReset) (h : handleEvent e s = .next t)
    (ht : t.rst = true) : t.AtReset := by
  obtain ⟨-, hedge⟩ | ⟨-, rfl⟩ | ⟨-, rfl⟩ | ⟨_, _, -, hp⟩ | ⟨-, hw⟩ := handleEvent_cases h
  · have hrst : s.rst = true := (clockEdge_rst hedge).symm.trans ht
    rw [clockEdge_of_rst hrst] at hedge
    injection hedge with hedge
    subst hedge
    exact atReset_resetRegisters s
  · exact atReset_resetRegisters s
  · simp at ht
  · obtain ⟨-, rfl⟩ := presentAt_cases hp
    exact hs ht
  · obtain ⟨-, rfl⟩ := withdrawAt_cases hw
    exact hs ht

/-- The outputs that the reset values give: FSM state IN_IDLE and safe pins (R191). -/
theorem State.AtReset.outputs (h : s.AtReset) :
    s.fsm = .inIdle ∧
      s.cartPins = { a := 0x000#12, dOut := 0x00#8, dOe := false, dPull := 0x00#8, cs := false } := by
  obtain ⟨haddr, hdrive, hshadow, hcs, -⟩ := h
  simp [State.fsm, State.cartPins, State.cartDPull, haddr, hdrive, hshadow, hcs]

/-! ### Break before make (R202) -/

/-- No event moves both `DRIVE` and `CS`, but one that resets the registers: phase B writes `DRIVE` only, a command at
its accepting edge writes `CS` only. -/
theorem handleEvent_moves_one {e : PortEvent} (h : handleEvent e s = .next t) :
    t.drive = s.drive ∨ t.cs = s.cs ∨ t.drive = false ∧ t.cs = false := by
  by_cases hclk : e = .clkRise
  · subst hclk
    obtain ⟨-, rfl⟩ | ⟨-, -, rfl⟩ | ⟨-, -, -, rfl⟩ | ⟨-, -, -, u, hu, rfl⟩ := clockEdge_cases h
    · exact .inr (.inr ⟨rfl, rfl⟩)
    · exact .inr (.inl rfl)
    · exact .inl rfl
    · exact .inl (acceptWord_rst_drive hu).2
  by_cases hrst : e = .rstRise
  · subst hrst
    injection h with h
    subst h
    exact .inr (.inr ⟨rfl, rfl⟩)
  · exact .inl (handleEvent_sameRegisters hclk hrst h).drive

/-- Where an event from a state that meets the invariant raises one of `DRIVE` and `CS`, the other is 0 before it
and after it. -/
theorem handleEvent_breaks_before_make {e : PortEvent} (hs : s.Inv) (h : handleEvent e s = .next t) :
    (s.drive = false → t.drive = true → s.cs = false ∧ t.cs = false) ∧
    (s.cs = false → t.cs = true → s.drive = false ∧ t.drive = false) := by
  obtain ⟨hsafe, -⟩ : t.Inv := handleEvent_inv hs h
  constructor <;> intro h0 h1
  · have hcs : t.cs = false := by simpa [State.Safe, h1] using hsafe
    obtain hdrive | hkept | ⟨hdrive, -⟩ := handleEvent_moves_one h
    · simp [h0, h1] at hdrive
    · exact ⟨hkept.symm.trans hcs, hcs⟩
    · simp [h1] at hdrive
  · have hdrive : t.drive = false := by simpa [State.Safe, h1] using hsafe
    obtain hkept | hcs | ⟨-, hcs⟩ := handleEvent_moves_one h
    · exact ⟨hkept.symm.trans hdrive, hdrive⟩
    · simp [h0, h1] at hcs
    · simp [h1] at hcs

/-- Only ENABLE_CS selects the cartridge (R203). -/
theorem exec_selects (h : exec i s = .next u) (h0 : s.cs = false) (h1 : u.cs = true) : i = .enableCs := by
  obtain ⟨-, -, -, hcs, -⟩ := exec_writers h
  obtain ⟨a, rfl⟩ | rfl | rfl := hcs (by simp [h0, h1])
  · injection h with h
    simp [← h] at h1
  · rfl
  · injection h with h
    simp [← h] at h1

theorem State.SameRegisters.trans (h : s.SameRegisters t) (h' : t.SameRegisters u) : s.SameRegisters u where
  addr := h'.addr.trans h.addr
  drive := h'.drive.trans h.drive
  shadow := h'.shadow.trans h.shadow
  cs := h'.cs.trans h.cs
  acc := h'.acc.trans h.acc
  phase := h'.phase.trans h.phase
  pend := h'.pend.trans h.pend
  rspValid := h'.rspValid.trans h.rspValid
  rspStatus := h'.rspStatus.trans h.rspStatus
  rspData := h'.rspData.trans h.rspData

/-- The host's moves between two edges write no register (30 R72). -/
theorem runEvents_sameRegisters {es : List PortEvent} (hes : ∀ e ∈ es, e ≠ .clkRise ∧ e ≠ .rstRise)
    (h : runEvents es s = .next t) : s.SameRegisters t := by
  induction es generalizing s with
  | nil =>
    injection h with h
    subst h
    constructor <;> rfl
  | cons e es ih =>
    obtain ⟨⟨hclk, hrst⟩, hes⟩ := List.forall_mem_cons.mp hes
    obtain ⟨u, hu, hrest⟩ := bindNext_eq_next.mp h
    obtain ⟨-, he⟩ := guardedEvent_eq_next.mp hu
    exact (handleEvent_sameRegisters hclk hrst he).trans (ih hes hrest)

/-! ### A block of reads below the boundary (R216) -/

/-- A whole command ends with its own response visible (30 R74). -/
theorem response_commandResult (cw : CommandWord) (s : State) :
    (commandResult cw s).response = some ⟨(commandResult cw s).rspStatus, (commandResult cw s).rspData⟩ := by
  rw [State.response, if_pos (commandResult_fsm cw s).1]

theorem response_commandResult_setAddress (a : Word16) (s : State) :
    (commandResult (encode (.setAddress a)) s).response = some ⟨statusOk, noData⟩ := by
  rw [commandResult_setAddress (decode_encode _)]
  rfl

/-- The run with one more word answered by `rsp`. -/
def HostRun.answer (cw : CommandWord) (rsp : Response) (r : HostRun) : HostRun :=
  { r with
    state := commandResult cw r.state
    responses := r.responses ++ [rsp]
    answered := some (commandResult cw r.state) }

/-- A line that presents a word, by the response it ends with. -/
theorem HostRun.line_word_of_response {cw : CommandWord} {rsp : Response} (hr : r.state.Ready) (hs : r.state.Safe)
    (h : (commandResult cw r.state).response = some rsp) : r.line (.word cw) = .ok (r.answer cw rsp) := by
  rw [response_commandResult] at h
  injection h with h
  rw [HostRun.line_word cw hr hs, h, HostRun.answer]

/-- `READ` below the boundary (30 R92): the two responses, and `SHADOW` kept for the next. -/
theorem HostRun.lines_readLines_of_output {a : Word16} (h : a.toNat < Config.romBoundary) (hr : r.state.Ready)
    (hs : r.state.Safe) :
    ∃ r', r.lines (readLines a) = .ok r' ∧ r'.state.Ready ∧ r'.state.Safe ∧ r'.state.shadow = r.state.shadow ∧
      r'.responses = r.responses ++ [⟨statusOk, noData⟩, ⟨statusOk, zext16 r.state.shadow⟩] := by
  obtain ⟨hr₁, hs₁⟩ := commandResult_ready (encode (.setAddress a)) hr hs
  obtain ⟨hr₂, hs₂⟩ := commandResult_ready (encode .getData) hr₁ hs₁
  obtain ⟨hpins₁, -⟩ := commandResult_encode_setAddress a r.state
  obtain ⟨-, hdrive, hshadow, -⟩ := registers_of_cartPins hpins₁
  obtain ⟨hrsp, hpins₂, -⟩ := commandResult_encode_getData (commandResult (encode (.setAddress a)) r.state)
  obtain ⟨-, -, hshadow₂, -⟩ := registers_of_cartPins hpins₂
  rw [readValue_of_output (hdrive.trans ((driveOf_eq_true_iff a).mpr h)), hshadow] at hrsp
  have hset : r.line (.word (encode (.setAddress a))) = .ok (r.answer (encode (.setAddress a)) ⟨statusOk, noData⟩) :=
    HostRun.line_word_of_response hr hs (response_commandResult_setAddress a r.state)
  have hget := HostRun.line_word_of_response (r := r.answer (encode (.setAddress a)) ⟨statusOk, noData⟩) hr₁ hs₁ hrsp
  have hrun : r.lines (readLines a) = .ok ((r.answer (encode (.setAddress a)) ⟨statusOk, noData⟩).answer
      (encode .getData) ⟨statusOk, zext16 r.state.shadow⟩) := by
    simp only [readLines_of_output h, HostRun.lines, Machine.commandLine, hset, hget]
  exact ⟨_, hrun, hr₂, hs₂, hshadow₂.trans hshadow, List.append_assoc r.responses [_] [_]⟩

/-- One more `READ` at the end of the block (30 R92). -/
theorem readSeqLines_succ (a : Word16) (n : Nat) :
    readSeqLines a (n + 1) = readSeqLines a n ++ readLines (add16 a (BitVec.ofNat 16 n)) := by
  simp [readSeqLines, List.range_succ]

/-- The addresses of a block that lies below the boundary do not wrap (30 R92). -/
theorem toNat_add16_lt_romBoundary {a : Word16} {n : Nat} (h : a.toNat + n < Config.romBoundary) :
    (add16 a (BitVec.ofNat 16 n)).toNat < Config.romBoundary := by
  unfold Config.romBoundary at *
  rw [add16, BitVec.toNat_add, BitVec.toNat_ofNat]
  omega

/-- `READ_SEQ` below the boundary: a pair of responses for each byte, `SHADOW` kept throughout. -/
theorem HostRun.lines_readSeqLines_of_output {a : Word16} {n : Nat} (h : a.toNat + n ≤ Config.romBoundary)
    (hr : s.Ready) (hs : s.Safe) :
    ∃ r', HostRun.lines (readSeqLines a n) (HostRun.start s) = .ok r' ∧ r'.state.Ready ∧ r'.state.Safe ∧
      r'.state.shadow = s.shadow ∧
      r'.responses = (List.replicate n [⟨statusOk, noData⟩, ⟨statusOk, zext16 s.shadow⟩]).flatten := by
  induction n with
  | zero => exact ⟨_, rfl, hr, hs, rfl, rfl⟩
  | succ n ih =>
    obtain ⟨r, hrun, hr₁, hs₁, hshadow₁, hrsp₁⟩ := ih (by omega)
    obtain ⟨r', hread, hr₂, hs₂, hshadow₂, hrsp₂⟩ :=
      HostRun.lines_readLines_of_output (toNat_add16_lt_romBoundary (a := a) (n := n) (by omega)) hr₁ hs₁
    refine ⟨r', ?_, hr₂, hs₂, hshadow₂.trans hshadow₁, ?_⟩
    · rw [readSeqLines_succ, HostRun.lines_append, hrun]
      exact hread
    · rw [hrsp₂, hrsp₁, hshadow₁, List.replicate_succ', List.flatten_append, List.flatten_singleton]

/-! ### The end of a host program's run (R217) -/

/-- The end is a cycle in which the last response is visible, and there is none exactly if there was no response. -/
def HostEnd.AtLastResponse (e : HostEnd) : Prop :=
  (∀ t, e.state = some t → t.rspValid = true ∧ t.response = e.responses.getLast?) ∧
  (e.state = none ↔ e.responses = [])

/-- Before the first line there is neither an end nor a response. -/
theorem HostRun.start_atLastResponse (s : State) : (HostRun.start s).finish.AtLastResponse := by
  simp [HostEnd.AtLastResponse, HostRun.finish, HostRun.start]

/-- Every line keeps that the run so far ends at its last response: a word moves the end on, `IDLE n` leaves it. -/
theorem HostRun.line_atLastResponse (l : HostLine) {r r' : HostRun} (hr : r.state.Ready) (hs : r.state.Safe)
    (he : r.finish.AtLastResponse) (h : r.line l = .ok r') :
    r'.state.Ready ∧ r'.state.Safe ∧ r'.finish.AtLastResponse := by
  cases l with
  | word cw =>
    obtain ⟨hr', hs'⟩ := commandResult_ready cw hr hs
    rw [HostRun.line_word cw hr hs] at h
    injection h with h
    subst h
    refine ⟨hr', hs', ?_, by simp [HostRun.finish]⟩
    rintro t ⟨⟩
    exact ⟨(commandResult_fsm cw r.state).1, by simp [HostRun.finish, response_commandResult]⟩
  | idle n =>
    obtain ⟨hr', hs'⟩ := idleResult_ready n hr hs
    rw [HostRun.line_idle n hr hs] at h
    injection h with h
    subst h
    exact ⟨hr', hs', he⟩

/-- So does a whole host program. -/
theorem HostProg.run_atLastResponse (p : HostProg) {r r' : HostRun} (hr : r.state.Ready) (hs : r.state.Safe)
    (he : r.finish.AtLastResponse) (h : p.run r = .ok r') : r'.finish.AtLastResponse := by
  have hkeeps := p.run_keeps (P := fun r => r.state.Ready ∧ r.state.Safe ∧ r.finish.AtLastResponse)
    (fun l _ _ ⟨hr, hs, he⟩ h => HostRun.line_atLastResponse l hr hs he h) (fun _ _ h => h) ⟨hr, hs, he⟩ h
  exact hkeeps.2.2

/-- A host program that runs through ends where its run is finished. -/
theorem HostProg.endOfRun_eq_ok {p : HostProg} {e : HostEnd} :
    p.endOfRun s = .ok e ↔ ∃ r, p.run (HostRun.start s) = .ok r ∧ r.finish = e := by
  unfold HostProg.endOfRun
  cases p.run (HostRun.start s) <;> simp

end Sys2Proof.Machine
end

section
/-! The statements about reset and hazards (spec/70_reset_and_hazards.md). -/

namespace Sys2Proof.Machine

/-- Settles O9: every event keeps the reset values while `rst = 1`, and these values give the outputs. -/
theorem registersHoldResetValuesWhileRst : Obligations.RegistersHoldResetValuesWhileRst := by
  intro s t hs h hrst
  obtain ⟨-, u, hu, rfl⟩ := step_cases h
  have hreset : u.AtReset := handleEvent_atReset hs hu hrst
  exact ⟨hreset, hreset.outputs⟩

/-- Settles O7: the next state is that of `State.raiseRst`, whatever the phase. -/
theorem risingRstResetsAtOnce : Obligations.RisingRstResetsAtOnce := by
  intro s hc hrise
  have hstep : step s = .next s.raiseRst.popEvent := by
    rw [step_of_not_contended hc, hrise, handleEvent, mapNext_next]
  exact ⟨_, hstep, rfl, rfl, rfl, rfl, rfl, rfl, rfl, rfl, rfl, rfl, rfl, rfl⟩

/-- Settles O37: no event moves both `DRIVE` and `CS` but to 0, and the state after it is safe. -/
theorem breakBeforeMake : Obligations.BreakBeforeMake := by
  intro s t hs h
  obtain ⟨-, u, hu, rfl⟩ := step_cases h
  have hbreaks := handleEvent_breaks_before_make hs hu
  exact hbreaks

/-- Settles O38: the host's moves write neither `DRIVE` nor `CS`, so what the second edge finds held all along. -/
theorem fullPeriodBetweenSelectAndDrive : Obligations.FullPeriodBetweenSelectAndDrive := by
  intro s t u v w p q hs _ hfirst hmoves hp hq hsecond
  have hhost : ∀ e ∈ p ++ q, e ≠ .clkRise ∧ e ≠ .rstRise := by
    intro e he
    obtain rfl | ⟨op, arg, rfl⟩ := hmoves e he <;> simp
  obtain ⟨hhostp, hhostq⟩ := List.forall_mem_append.mp hhost
  have htu := runEvents_sameRegisters hhostp hp
  have huv := runEvents_sameRegisters hhostq hq
  have hv : v.Inv := (clockEdge_inv hs hfirst).of_sameRegisters (htu.trans huv)
  obtain ⟨hdrive, hcs⟩ := handleEvent_breaks_before_make (e := .clkRise) hv hsecond
  refine ⟨fun h0 h1 => ?_, fun h0 h1 => ?_⟩
  · obtain ⟨hbefore, hafter⟩ := hdrive h0 h1
    have hu : u.cs = false := huv.cs.symm.trans hbefore
    exact ⟨htu.cs.symm.trans hu, hu, hbefore, hafter⟩
  · obtain ⟨hbefore, hafter⟩ := hcs h0 h1
    have hu : u.drive = false := huv.drive.symm.trans hbefore
    exact ⟨htu.drive.symm.trans hu, hu, hbefore, hafter⟩

/-- Settles O39: no command writes `ADDR` at its accepting edge, and phase B writes no `CS`. -/
theorem addressChangesOnlyDeselected : Obligations.AddressChangesOnlyDeselected := by
  rintro s t ⟨-, hdesel⟩ hr h
  obtain ⟨-, hsame⟩ | ⟨-, hB, rfl⟩ | ⟨-, -, rfl⟩ | ⟨_, -, -, -, rfl⟩ | ⟨i, u, ha, hu, rfl⟩ :=
    step_cases_outside_reset hr h
  · simp +contextual [hsame.addr, hsame.cs]
  · simp [hB, hdesel hB]
  · simp +contextual
  · simp +contextual
  · obtain ⟨haddr, -⟩ := exec_writers hu
    refine ⟨fun hne => absurd haddr hne, fun h0 h1 => ?_⟩
    obtain rfl := exec_selects hu h0 h1
    exact ⟨ha, haddr⟩

/-- Settles O53. -/
theorem readSeqBelowTheBoundaryAnswersShadow : Obligations.ReadSeqBelowTheBoundaryAnswersShadow := by
  intro a n s hr hs h
  obtain ⟨r, hrun, -, -, -, hrsp⟩ := HostRun.lines_readSeqLines_of_output h hr hs
  exact ⟨r, hrun, hrsp⟩

/-- Settles O55: it holds before the first line, and every line keeps it. -/
theorem runEndsAtItsLastResponse : Obligations.RunEndsAtItsLastResponse := by
  intro p s e hr hs h
  obtain ⟨r, hrun, rfl⟩ := HostProg.endOfRun_eq_ok.mp h
  exact p.run_atLastResponse (r := HostRun.start s) hr hs (HostRun.start_atLastResponse s) hrun

/-- Settles O56: the program leaves the block ready, so the idle line runs, and it leaves the end where it is. -/
theorem runEndsBeforeTrailingIdles : Obligations.RunEndsBeforeTrailingIdles := by
  intro p n s hr hs
  unfold HostProg.endOfRun
  rw [HostProg.run]
  cases hrun : p.run (HostRun.start s) with
  | error e => rfl
  | ok r =>
    obtain ⟨hr', hs'⟩ := p.run_ready (r := HostRun.start s) hr hs hrun
    simp only [HostProg.run, exprValue, HostRun.line_idle n hr' hs']
    rfl

end Sys2Proof.Machine
end
